-- ==== Sys2Proof/Word.lean ====
section
/-! DEFINITION. The value types of the machine (spec/00_scope.md R10): a byte, a 16-bit word, a register number. -/

namespace Sys2Proof

/-- An 8-bit value (R10). -/
abbrev Byte := BitVec 8

/-- A 16-bit value: a flash word, a word address, a register pair (R10). -/
abbrev Word := BitVec 16

/-- The number of a general register, 0 to 31 (R20). -/
abbrev Reg := Fin 32

/-- The number of a bit in a byte, or of a status flag (R24): 0 to 7. -/
abbrev BitNo := Fin 8

end Sys2Proof
end

