-- ==== Sys2Proof/Config.lean ====
section
/-! DEFINITION. The sizes the source fixes (spec/00_scope.md R7), the parameters of R8 for which the spec gives no
value, and the free value of R77. An opaque constant has no body: nothing proved here can depend on its value. -/

namespace Sys2Proof

/-- `FLASH_BYTES` (R7). -/
def Config.flashBytes : Nat := 32768

/-- `FLASH_WORDS` (R7). -/
def Config.flashWords : Nat := 16384

/-- `DATA_SIZE` (R7): 32 + 64 + 160 + 2560. -/
def Config.dataSize : Nat := 2816

/-- `EEPROM_BYTES` (R7). -/
def Config.eepromBytes : Nat := 1024

/-- `NUM_VECTORS` (R7). -/
def Config.numVectors : Nat := 43

/-- `WAKEUP_CYCLES` (R8, R286): open, no default. -/
opaque Config.wakeupCycles : Nat

/-- `PLL_LOCK_CYCLES` (R8, R75): open, no default. -/
opaque Config.pllLockCycles : Nat

/-- `ADC_CONV_CYCLES` (R8, R79): open, no default. -/
opaque Config.adcConvCycles : Nat

/-- FREE VALUE. The byte an attached `SPI_CALLBACK` returns (R77, 93_implementation_defined.md U12), one per draw. -/
opaque Config.spiReply : Nat → Byte

end Sys2Proof
end

