-- ==== Sys2Proof/Syntax.lean ====
section
/-! DEFINITION. The instructions: one constructor per row of spec/opcode_table.json (spec/30_encoding.md R106), operands
as the assembler names them: a register by its own number, an immediate by its bits, an offset by its bits. -/

namespace Sys2Proof

/-- The 85 rows of R106. `d` and `r` are register numbers (of a pair: the low register), `k8` an immediate, `q` a
displacement, `a` an address, `b` a bit number, `f` a flag number, `k` an offset or a jump target. -/
inductive Instr where
  | nop
  | movw (d r : Reg)
  | muls (d r : Reg)
  | mulsu (d r : Reg)
  | fmul (d r : Reg)
  | fmuls (d r : Reg)
  | fmulsu (d r : Reg)
  | cpc (d r : Reg)
  | sbc (d r : Reg)
  | add (d r : Reg)
  | cpse (d r : Reg)
  | cp (d r : Reg)
  | sub (d r : Reg)
  | adc (d r : Reg)
  | and (d r : Reg)
  | eor (d r : Reg)
  | or (d r : Reg)
  | mov (d r : Reg)
  | cpi (d : Reg) (k8 : Byte)
  | sbci (d : Reg) (k8 : Byte)
  | subi (d : Reg) (k8 : Byte)
  | ori (d : Reg) (k8 : Byte)
  | andi (d : Reg) (k8 : Byte)
  | lddZ (d : Reg) (q : BitVec 6)
  | lddY (d : Reg) (q : BitVec 6)
  | stdZ (q : BitVec 6) (r : Reg)
  | stdY (q : BitVec 6) (r : Reg)
  | lds (d : Reg) (a : Word)
  | ldZInc (d : Reg)
  | ldZDec (d : Reg)
  | lpmZ (d : Reg)
  | lpmZInc (d : Reg)
  | ldYInc (d : Reg)
  | ldYDec (d : Reg)
  | ldX (d : Reg)
  | ldXInc (d : Reg)
  | ldXDec (d : Reg)
  | pop (d : Reg)
  | sts (a : Word) (r : Reg)
  | stZInc (r : Reg)
  | stZDec (r : Reg)
  | stYInc (r : Reg)
  | stYDec (r : Reg)
  | stX (r : Reg)
  | stXInc (r : Reg)
  | stXDec (r : Reg)
  | push (r : Reg)
  | com (d : Reg)
  | neg (d : Reg)
  | swap (d : Reg)
  | inc (d : Reg)
  | asr (d : Reg)
  | lsr (d : Reg)
  | ror (d : Reg)
  | bset (f : BitNo)
  | bclr (f : BitNo)
  | ijmp
  | dec (d : Reg)
  | jmp (k : BitVec 22)
  | call (k : BitVec 22)
  | ret
  | icall
  | reti
  | sleep
  | brk
  | wdr
  | lpm
  | adiw (d : Reg) (k6 : BitVec 6)
  | sbiw (d : Reg) (k6 : BitVec 6)
  | cbi (a : BitVec 5) (b : BitNo)
  | sbic (a : BitVec 5) (b : BitNo)
  | sbi (a : BitVec 5) (b : BitNo)
  | sbis (a : BitVec 5) (b : BitNo)
  | mul (d r : Reg)
  | ioIn (d : Reg) (a : BitVec 6)
  | ioOut (a : BitVec 6) (r : Reg)
  | rjmp (k : BitVec 12)
  | rcall (k : BitVec 12)
  | ldi (d : Reg) (k8 : Byte)
  | brbs (f : BitNo) (k : BitVec 7)
  | brbc (f : BitNo) (k : BitVec 7)
  | bld (d : Reg) (b : BitNo)
  | bst (d : Reg) (b : BitNo)
  | sbrc (r : Reg) (b : BitNo)
  | sbrs (r : Reg) (b : BitNo)
  deriving DecidableEq, Repr

end Sys2Proof
end

