-- ==== Sys2Proof/WellFormed.lean ====
section
/-! DEFINITION. Which operands an encoding can name: the register subsets of spec/10_state.md R21 and the field
assembly of spec/30_encoding.md R102. Every other operand is bounded by its type. -/

namespace Sys2Proof

/-- Operand class "upper" (R21): R16 to R31. -/
def Reg.isUpper (r : Reg) : Bool := decide (16 ≤ r.val)

/-- Operand class "upper-low" (R21): R16 to R23. -/
def Reg.isUpperLow (r : Reg) : Bool := decide (16 ≤ r.val) && decide (r.val < 24)

/-- Operand class "even pair" (R21): the low register of a pair R1:R0 to R31:R30. -/
def Reg.isEven (r : Reg) : Bool := decide (r.val % 2 = 0)

/-- Operand class "upper pair" (R21): the low register of R25:R24, R27:R26, R29:R28 or R31:R30. -/
def Reg.isUpperPair (r : Reg) : Bool := decide (24 ≤ r.val) && Reg.isEven r

/-- The instruction has an encoding (R21, R102). -/
def Instr.wellFormed : Instr → Bool
  | .movw d r => Reg.isEven d && Reg.isEven r
  | .muls d r => Reg.isUpper d && Reg.isUpper r
  | .mulsu d r => Reg.isUpperLow d && Reg.isUpperLow r
  | .fmul d r => Reg.isUpperLow d && Reg.isUpperLow r
  | .fmuls d r => Reg.isUpperLow d && Reg.isUpperLow r
  | .fmulsu d r => Reg.isUpperLow d && Reg.isUpperLow r
  | .cpi d _ => Reg.isUpper d
  | .sbci d _ => Reg.isUpper d
  | .subi d _ => Reg.isUpper d
  | .ori d _ => Reg.isUpper d
  | .andi d _ => Reg.isUpper d
  | .ldi d _ => Reg.isUpper d
  | .adiw d _ => Reg.isUpperPair d
  | .sbiw d _ => Reg.isUpperPair d
  | .nop => true
  | .cpc _ _ => true
  | .sbc _ _ => true
  | .add _ _ => true
  | .cpse _ _ => true
  | .cp _ _ => true
  | .sub _ _ => true
  | .adc _ _ => true
  | .and _ _ => true
  | .eor _ _ => true
  | .or _ _ => true
  | .mov _ _ => true
  | .lddZ _ _ => true
  | .lddY _ _ => true
  | .stdZ _ _ => true
  | .stdY _ _ => true
  | .lds _ _ => true
  | .ldZInc _ => true
  | .ldZDec _ => true
  | .lpmZ _ => true
  | .lpmZInc _ => true
  | .ldYInc _ => true
  | .ldYDec _ => true
  | .ldX _ => true
  | .ldXInc _ => true
  | .ldXDec _ => true
  | .pop _ => true
  | .sts _ _ => true
  | .stZInc _ => true
  | .stZDec _ => true
  | .stYInc _ => true
  | .stYDec _ => true
  | .stX _ => true
  | .stXInc _ => true
  | .stXDec _ => true
  | .push _ => true
  | .com _ => true
  | .neg _ => true
  | .swap _ => true
  | .inc _ => true
  | .asr _ => true
  | .lsr _ => true
  | .ror _ => true
  | .bset _ => true
  | .bclr _ => true
  | .ijmp => true
  | .dec _ => true
  | .jmp _ => true
  | .call _ => true
  | .ret => true
  | .icall => true
  | .reti => true
  | .sleep => true
  | .brk => true
  | .wdr => true
  | .lpm => true
  | .cbi _ _ => true
  | .sbic _ _ => true
  | .sbi _ _ => true
  | .sbis _ _ => true
  | .mul _ _ => true
  | .ioIn _ _ => true
  | .ioOut _ _ => true
  | .rjmp _ => true
  | .rcall _ => true
  | .brbs _ _ => true
  | .brbc _ _ => true
  | .bld _ _ => true
  | .bst _ _ => true
  | .sbrc _ _ => true
  | .sbrs _ _ => true

end Sys2Proof
end

