-- ==== Sys2Proof/Decode.lean ====
section
/-! DEFINITION. Decoding: the fields of spec/30_encoding.md R102, the table of R106 as mask and pattern rows, the
matching rule of R101, the two-word test of R104, and after them the encoder, written from the encoding strings of R106. -/

namespace Sys2Proof

/-! ## Fields (R102) -/

/-- d (or r) = w[8:4]: register 0 to 31. -/
def rd5 (w : Word) : Reg := Fin.ofNat 32 (w.extractLsb' 4 5).toNat

/-- r = w[9]:w[3:0]: register 0 to 31 (F_RR). -/
def rr5 (w : Word) : Reg := Fin.ofNat 32 (w.extractLsb' 9 1 ++ w.extractLsb' 0 4).toNat

/-- d = 16 + w[7:4] (F_RI, F_R4R4). -/
def rdUpper (w : Word) : Reg := Fin.ofNat 32 (16 + (w.extractLsb' 4 4).toNat)

/-- r = 16 + w[3:0] (F_R4R4). -/
def rrUpper (w : Word) : Reg := Fin.ofNat 32 (16 + (w.extractLsb' 0 4).toNat)

/-- d = 16 + w[6:4] (F_R3R3). -/
def rdUpperLow (w : Word) : Reg := Fin.ofNat 32 (16 + (w.extractLsb' 4 3).toNat)

/-- r = 16 + w[2:0] (F_R3R3). -/
def rrUpperLow (w : Word) : Reg := Fin.ofNat 32 (16 + (w.extractLsb' 0 3).toNat)

/-- Low register of the destination pair = 2 × w[7:4] (F_RP). -/
def pairD (w : Word) : Reg := Fin.ofNat 32 (2 * (w.extractLsb' 4 4).toNat)

/-- Low register of the source pair = 2 × w[3:0] (F_RP). -/
def pairR (w : Word) : Reg := Fin.ofNat 32 (2 * (w.extractLsb' 0 4).toNat)

/-- Low register of the pair = 24 + 2 × w[5:4] (F_WI). -/
def rdWordPair (w : Word) : Reg := Fin.ofNat 32 (24 + 2 * (w.extractLsb' 4 2).toNat)

/-- K = w[11:8]:w[3:0] (F_RI). -/
def imm8 (w : Word) : Byte := w.extractLsb' 8 4 ++ w.extractLsb' 0 4

/-- K = w[7:6]:w[3:0] (F_WI). -/
def imm6 (w : Word) : BitVec 6 := w.extractLsb' 6 2 ++ w.extractLsb' 0 4

/-- q = w[13]:w[11:10]:w[2:0] (F_DISP). -/
def disp6 (w : Word) : BitVec 6 := w.extractLsb' 13 1 ++ w.extractLsb' 10 2 ++ w.extractLsb' 0 3

/-- k = w[8:4]:w[0]:second word (F_ABS22). -/
def abs22 (w w2 : Word) : BitVec 22 := w.extractLsb' 4 5 ++ w.extractLsb' 0 1 ++ w2

/-- A = w[7:3] (F_IOB). -/
def ioAddr5 (w : Word) : BitVec 5 := w.extractLsb' 3 5

/-- A = w[10:9]:w[3:0] (F_IO). -/
def ioAddr6 (w : Word) : BitVec 6 := w.extractLsb' 9 2 ++ w.extractLsb' 0 4

/-- w[2:0]: the bit number of F_IOB and F_RB, the flag number of F_BR. -/
def bitLow (w : Word) : BitNo := Fin.ofNat 8 (w.extractLsb' 0 3).toNat

/-- s = w[6:4] (F_S). -/
def flagNo (w : Word) : BitNo := Fin.ofNat 8 (w.extractLsb' 4 3).toNat

/-- w[11:0] (F_REL12), the signed word offset's bits. -/
def rel12 (w : Word) : BitVec 12 := w.extractLsb' 0 12

/-- w[9:3] (F_BR), the signed word offset's bits. -/
def rel7 (w : Word) : BitVec 7 := w.extractLsb' 3 7

/-! ## The opcode table (R106) -/

/-- A row of R106: it is selected by a first word w with `(w AND mask) = pat`, is `words` long, and reads its operands
from the first word and, where it has one, the second. -/
structure OpcodeRow where
  mask : Word
  pat : Word
  words : Nat
  build : Word → Word → Instr

/-- R106: NOP to ANDI. -/
def opcodeRowsA : List OpcodeRow :=
  [ ⟨0xFFFF, 0x0000, 1, fun _ _ => .nop⟩
  , ⟨0xFF00, 0x0100, 1, fun w _ => .movw (pairD w) (pairR w)⟩
  , ⟨0xFF00, 0x0200, 1, fun w _ => .muls (rdUpper w) (rrUpper w)⟩
  , ⟨0xFF88, 0x0300, 1, fun w _ => .mulsu (rdUpperLow w) (rrUpperLow w)⟩
  , ⟨0xFF88, 0x0308, 1, fun w _ => .fmul (rdUpperLow w) (rrUpperLow w)⟩
  , ⟨0xFF88, 0x0380, 1, fun w _ => .fmuls (rdUpperLow w) (rrUpperLow w)⟩
  , ⟨0xFF88, 0x0388, 1, fun w _ => .fmulsu (rdUpperLow w) (rrUpperLow w)⟩
  , ⟨0xFC00, 0x0400, 1, fun w _ => .cpc (rd5 w) (rr5 w)⟩
  , ⟨0xFC00, 0x0800, 1, fun w _ => .sbc (rd5 w) (rr5 w)⟩
  , ⟨0xFC00, 0x0C00, 1, fun w _ => .add (rd5 w) (rr5 w)⟩
  , ⟨0xFC00, 0x1000, 1, fun w _ => .cpse (rd5 w) (rr5 w)⟩
  , ⟨0xFC00, 0x1400, 1, fun w _ => .cp (rd5 w) (rr5 w)⟩
  , ⟨0xFC00, 0x1800, 1, fun w _ => .sub (rd5 w) (rr5 w)⟩
  , ⟨0xFC00, 0x1C00, 1, fun w _ => .adc (rd5 w) (rr5 w)⟩
  , ⟨0xFC00, 0x2000, 1, fun w _ => .and (rd5 w) (rr5 w)⟩
  , ⟨0xFC00, 0x2400, 1, fun w _ => .eor (rd5 w) (rr5 w)⟩
  , ⟨0xFC00, 0x2800, 1, fun w _ => .or (rd5 w) (rr5 w)⟩
  , ⟨0xFC00, 0x2C00, 1, fun w _ => .mov (rd5 w) (rr5 w)⟩
  , ⟨0xF000, 0x3000, 1, fun w _ => .cpi (rdUpper w) (imm8 w)⟩
  , ⟨0xF000, 0x4000, 1, fun w _ => .sbci (rdUpper w) (imm8 w)⟩
  , ⟨0xF000, 0x5000, 1, fun w _ => .subi (rdUpper w) (imm8 w)⟩
  , ⟨0xF000, 0x6000, 1, fun w _ => .ori (rdUpper w) (imm8 w)⟩
  , ⟨0xF000, 0x7000, 1, fun w _ => .andi (rdUpper w) (imm8 w)⟩ ]

/-- R106: the loads, the stores, PUSH and POP. -/
def opcodeRowsB : List OpcodeRow :=
  [ ⟨0xD208, 0x8000, 1, fun w _ => .lddZ (rd5 w) (disp6 w)⟩
  , ⟨0xD208, 0x8008, 1, fun w _ => .lddY (rd5 w) (disp6 w)⟩
  , ⟨0xD208, 0x8200, 1, fun w _ => .stdZ (disp6 w) (rd5 w)⟩
  , ⟨0xD208, 0x8208, 1, fun w _ => .stdY (disp6 w) (rd5 w)⟩
  , ⟨0xFE0F, 0x9000, 2, fun w w2 => .lds (rd5 w) w2⟩
  , ⟨0xFE0F, 0x9001, 1, fun w _ => .ldZInc (rd5 w)⟩
  , ⟨0xFE0F, 0x9002, 1, fun w _ => .ldZDec (rd5 w)⟩
  , ⟨0xFE0F, 0x9004, 1, fun w _ => .lpmZ (rd5 w)⟩
  , ⟨0xFE0F, 0x9005, 1, fun w _ => .lpmZInc (rd5 w)⟩
  , ⟨0xFE0F, 0x9009, 1, fun w _ => .ldYInc (rd5 w)⟩
  , ⟨0xFE0F, 0x900A, 1, fun w _ => .ldYDec (rd5 w)⟩
  , ⟨0xFE0F, 0x900C, 1, fun w _ => .ldX (rd5 w)⟩
  , ⟨0xFE0F, 0x900D, 1, fun w _ => .ldXInc (rd5 w)⟩
  , ⟨0xFE0F, 0x900E, 1, fun w _ => .ldXDec (rd5 w)⟩
  , ⟨0xFE0F, 0x900F, 1, fun w _ => .pop (rd5 w)⟩
  , ⟨0xFE0F, 0x9200, 2, fun w w2 => .sts w2 (rd5 w)⟩
  , ⟨0xFE0F, 0x9201, 1, fun w _ => .stZInc (rd5 w)⟩
  , ⟨0xFE0F, 0x9202, 1, fun w _ => .stZDec (rd5 w)⟩
  , ⟨0xFE0F, 0x9209, 1, fun w _ => .stYInc (rd5 w)⟩
  , ⟨0xFE0F, 0x920A, 1, fun w _ => .stYDec (rd5 w)⟩
  , ⟨0xFE0F, 0x920C, 1, fun w _ => .stX (rd5 w)⟩
  , ⟨0xFE0F, 0x920D, 1, fun w _ => .stXInc (rd5 w)⟩
  , ⟨0xFE0F, 0x920E, 1, fun w _ => .stXDec (rd5 w)⟩
  , ⟨0xFE0F, 0x920F, 1, fun w _ => .push (rd5 w)⟩ ]

/-- R106: the one-operand, zero-operand and absolute forms, ADIW, SBIW. -/
def opcodeRowsC : List OpcodeRow :=
  [ ⟨0xFE0F, 0x9400, 1, fun w _ => .com (rd5 w)⟩
  , ⟨0xFE0F, 0x9401, 1, fun w _ => .neg (rd5 w)⟩
  , ⟨0xFE0F, 0x9402, 1, fun w _ => .swap (rd5 w)⟩
  , ⟨0xFE0F, 0x9403, 1, fun w _ => .inc (rd5 w)⟩
  , ⟨0xFE0F, 0x9405, 1, fun w _ => .asr (rd5 w)⟩
  , ⟨0xFE0F, 0x9406, 1, fun w _ => .lsr (rd5 w)⟩
  , ⟨0xFE0F, 0x9407, 1, fun w _ => .ror (rd5 w)⟩
  , ⟨0xFF8F, 0x9408, 1, fun w _ => .bset (flagNo w)⟩
  , ⟨0xFF8F, 0x9488, 1, fun w _ => .bclr (flagNo w)⟩
  , ⟨0xFFFF, 0x9508, 1, fun _ _ => .ret⟩
  , ⟨0xFFFF, 0x9518, 1, fun _ _ => .reti⟩
  , ⟨0xFFFF, 0x9588, 1, fun _ _ => .sleep⟩
  , ⟨0xFFFF, 0x9598, 1, fun _ _ => .brk⟩
  , ⟨0xFFFF, 0x95A8, 1, fun _ _ => .wdr⟩
  , ⟨0xFFFF, 0x95C8, 1, fun _ _ => .lpm⟩
  , ⟨0xFFFF, 0x9409, 1, fun _ _ => .ijmp⟩
  , ⟨0xFFFF, 0x9509, 1, fun _ _ => .icall⟩
  , ⟨0xFE0F, 0x940A, 1, fun w _ => .dec (rd5 w)⟩
  , ⟨0xFE0E, 0x940C, 2, fun w w2 => .jmp (abs22 w w2)⟩
  , ⟨0xFE0E, 0x940E, 2, fun w w2 => .call (abs22 w w2)⟩
  , ⟨0xFF00, 0x9600, 1, fun w _ => .adiw (rdWordPair w) (imm6 w)⟩
  , ⟨0xFF00, 0x9700, 1, fun w _ => .sbiw (rdWordPair w) (imm6 w)⟩ ]

/-- R106: the I/O bit forms, MUL, IN, OUT, the relative forms, LDI, the branches and the bit forms. -/
def opcodeRowsD : List OpcodeRow :=
  [ ⟨0xFF00, 0x9800, 1, fun w _ => .cbi (ioAddr5 w) (bitLow w)⟩
  , ⟨0xFF00, 0x9900, 1, fun w _ => .sbic (ioAddr5 w) (bitLow w)⟩
  , ⟨0xFF00, 0x9A00, 1, fun w _ => .sbi (ioAddr5 w) (bitLow w)⟩
  , ⟨0xFF00, 0x9B00, 1, fun w _ => .sbis (ioAddr5 w) (bitLow w)⟩
  , ⟨0xFC00, 0x9C00, 1, fun w _ => .mul (rd5 w) (rr5 w)⟩
  , ⟨0xF800, 0xB000, 1, fun w _ => .ioIn (rd5 w) (ioAddr6 w)⟩
  , ⟨0xF800, 0xB800, 1, fun w _ => .ioOut (ioAddr6 w) (rd5 w)⟩
  , ⟨0xF000, 0xC000, 1, fun w _ => .rjmp (rel12 w)⟩
  , ⟨0xF000, 0xD000, 1, fun w _ => .rcall (rel12 w)⟩
  , ⟨0xF000, 0xE000, 1, fun w _ => .ldi (rdUpper w) (imm8 w)⟩
  , ⟨0xFC00, 0xF000, 1, fun w _ => .brbs (bitLow w) (rel7 w)⟩
  , ⟨0xFC00, 0xF400, 1, fun w _ => .brbc (bitLow w) (rel7 w)⟩
  , ⟨0xFE08, 0xF800, 1, fun w _ => .bld (rd5 w) (bitLow w)⟩
  , ⟨0xFE08, 0xFA00, 1, fun w _ => .bst (rd5 w) (bitLow w)⟩
  , ⟨0xFE08, 0xFC00, 1, fun w _ => .sbrc (rd5 w) (bitLow w)⟩
  , ⟨0xFE08, 0xFE00, 1, fun w _ => .sbrs (rd5 w) (bitLow w)⟩ ]

/-- The 85 rows of R106, in the order of opcode_table.json; no word matches two of them (R101, R107). -/
def opcodeTable : List OpcodeRow := opcodeRowsA ++ opcodeRowsB ++ opcodeRowsC ++ opcodeRowsD

/-- "entry i matches word w iff (w & mask[i]) == pattern[i]" (R101). -/
def OpcodeRow.hits (row : OpcodeRow) (w : Word) : Bool := decide (w &&& row.mask = row.pat)

/-- `Is2Word(w)` (R104): LDS, STS, JMP, CALL, from the first word alone. -/
def is2Word (w : Word) : Bool :=
  decide (w &&& 0xFE0F = 0x9000) || decide (w &&& 0xFE0F = 0x9200)
    || decide (w &&& 0xFE0E = 0x940C) || decide (w &&& 0xFE0E = 0x940E)

/-- The instruction whose first word is `w` and whose second word, if it has one, is `w2`; none for an unhandled first
word (R101, R108). -/
def decodeWords (w w2 : Word) : Option Instr :=
  (opcodeTable.find? (fun row => row.hits w)).map (fun row => row.build w w2)

/-- Why a byte string is no instruction. -/
inductive DecodeError where
  /-- The first word matches no row (R108). -/
  | unhandled (w : Word)
  /-- The bytes end inside the instruction. -/
  | truncated
  deriving DecidableEq, Repr

/-- Two flash bytes as a word, the byte at the even address low (R62, R82). -/
def wordOfBytes (lo hi : Byte) : Word := hi ++ lo

/-- The instruction at the head of a byte string laid out as flash stores it, with the rest of the string. -/
def decode : List Byte → Except DecodeError (Instr × List Byte)
  | lo :: hi :: rest =>
    match decodeWords (wordOfBytes lo hi) 0 with
    | none => .error (.unhandled (wordOfBytes lo hi))
    | some i =>
      if is2Word (wordOfBytes lo hi) then
        match rest with
        | lo2 :: hi2 :: rest2 =>
          match decodeWords (wordOfBytes lo hi) (wordOfBytes lo2 hi2) with
          | some j => .ok (j, rest2)
          | none => .error (.unhandled (wordOfBytes lo hi))
        | _ => .error .truncated
      else .ok (i, rest)
  | _ => .error .truncated

/-- The four bytes of an instruction whose words, first word low, are the number `w`: each word little-endian. -/
def tableBytes (nbits w : Nat) : List Byte :=
  let v := w % 2 ^ nbits
  [BitVec.ofNat 8 v, BitVec.ofNat 8 (v >>> 8), BitVec.ofNat 8 (v >>> 16), BitVec.ofNat 8 (v >>> 24)]

/-- The instruction the decoder reads from the bits `w`, numbered as spec/opcode_table.json numbers them; every bit from
`nbits` up is 0. -/
def decodeTableWord (nbits w : Nat) : Option Instr :=
  match decode (tableBytes nbits w) with
  | .ok (i, _) => some i
  | .error _ => none

/-! ## The encoder, from the encoding strings of R106 -/

/-- `oooo oord dddd rrrr` -/
def encRR (op : BitVec 6) (d r : Reg) : Word :=
  op ++ BitVec.ofNat 1 (r.val / 16) ++ BitVec.ofNat 5 d.val ++ BitVec.ofNat 4 r.val

/-- `oooo KKKK dddd KKKK` -/
def encRI (op : BitVec 4) (d : Reg) (k8 : Byte) : Word :=
  op ++ k8.extractLsb' 4 4 ++ BitVec.ofNat 4 (d.val - 16) ++ k8.extractLsb' 0 4

/-- `oooo oood dddd oooo` -/
def encR (op : BitVec 7) (d : Reg) (low : BitVec 4) : Word := op ++ BitVec.ofNat 5 d.val ++ low

/-- `0000 0001 dddd rrrr` -/
def encRP (op : BitVec 8) (d r : Reg) : Word := op ++ BitVec.ofNat 4 (d.val / 2) ++ BitVec.ofNat 4 (r.val / 2)

/-- `0000 0010 dddd rrrr` -/
def encR4R4 (op : BitVec 8) (d r : Reg) : Word :=
  op ++ BitVec.ofNat 4 (d.val - 16) ++ BitVec.ofNat 4 (r.val - 16)

/-- `0000 0011 oddd orrr` -/
def encR3R3 (op : BitVec 9) (d : Reg) (o3 : BitVec 1) (r : Reg) : Word :=
  op ++ BitVec.ofNat 3 (d.val - 16) ++ o3 ++ BitVec.ofNat 3 (r.val - 16)

/-- `10q0 qqsd dddd yqqq` -/
def encDisp (st : BitVec 1) (d : Reg) (y : BitVec 1) (q : BitVec 6) : Word :=
  0b10#2 ++ q.extractLsb' 5 1 ++ 0b0#1 ++ q.extractLsb' 3 2 ++ st ++ BitVec.ofNat 5 d.val ++ y ++ q.extractLsb' 0 3

/-- First word of `1001 010k kkkk 11ck kkkk kkkk kkkk kkkk` -/
def encAbs22 (low : BitVec 3) (k : BitVec 22) : Word :=
  0b1001010#7 ++ k.extractLsb' 17 5 ++ low ++ k.extractLsb' 16 1

/-- `1001 011s KKdd KKKK` -/
def encWI (op : BitVec 8) (d : Reg) (k6 : BitVec 6) : Word :=
  op ++ k6.extractLsb' 4 2 ++ BitVec.ofNat 2 ((d.val - 24) / 2) ++ k6.extractLsb' 0 4

/-- `1001 10oo AAAA Abbb` -/
def encIOB (op : BitVec 8) (a : BitVec 5) (b : BitNo) : Word := op ++ a ++ BitVec.ofNat 3 b.val

/-- `1011 sAAd dddd AAAA` -/
def encIO (op : BitVec 5) (d : Reg) (a : BitVec 6) : Word :=
  op ++ a.extractLsb' 4 2 ++ BitVec.ofNat 5 d.val ++ a.extractLsb' 0 4

/-- `1111 0ckk kkkk ksss` -/
def encBR (op : BitVec 6) (f : BitNo) (k : BitVec 7) : Word := op ++ k ++ BitVec.ofNat 3 f.val

/-- `1111 1ood dddd 0bbb` -/
def encRB (op : BitVec 7) (d : Reg) (b : BitNo) : Word := op ++ BitVec.ofNat 5 d.val ++ 0b0#1 ++ BitVec.ofNat 3 b.val

/-- `1001 0100 csss 1000` -/
def encS (op : BitVec 9) (f : BitNo) : Word := op ++ BitVec.ofNat 3 f.val ++ 0b1000#4

/-- The words of a well-formed instruction, the first word first (R106). -/
def encode : Instr → List Word
  | .nop => [0x0000]
  | .movw d r => [encRP 0b00000001#8 d r]
  | .muls d r => [encR4R4 0b00000010#8 d r]
  | .mulsu d r => [encR3R3 0b000000110#9 d 0b0#1 r]
  | .fmul d r => [encR3R3 0b000000110#9 d 0b1#1 r]
  | .fmuls d r => [encR3R3 0b000000111#9 d 0b0#1 r]
  | .fmulsu d r => [encR3R3 0b000000111#9 d 0b1#1 r]
  | .cpc d r => [encRR 0b000001#6 d r]
  | .sbc d r => [encRR 0b000010#6 d r]
  | .add d r => [encRR 0b000011#6 d r]
  | .cpse d r => [encRR 0b000100#6 d r]
  | .cp d r => [encRR 0b000101#6 d r]
  | .sub d r => [encRR 0b000110#6 d r]
  | .adc d r => [encRR 0b000111#6 d r]
  | .and d r => [encRR 0b001000#6 d r]
  | .eor d r => [encRR 0b001001#6 d r]
  | .or d r => [encRR 0b001010#6 d r]
  | .mov d r => [encRR 0b001011#6 d r]
  | .cpi d k8 => [encRI 0b0011#4 d k8]
  | .sbci d k8 => [encRI 0b0100#4 d k8]
  | .subi d k8 => [encRI 0b0101#4 d k8]
  | .ori d k8 => [encRI 0b0110#4 d k8]
  | .andi d k8 => [encRI 0b0111#4 d k8]
  | .lddZ d q => [encDisp 0b0#1 d 0b0#1 q]
  | .lddY d q => [encDisp 0b0#1 d 0b1#1 q]
  | .stdZ q r => [encDisp 0b1#1 r 0b0#1 q]
  | .stdY q r => [encDisp 0b1#1 r 0b1#1 q]
  | .lds d a => [encR 0b1001000#7 d 0b0000#4, a]
  | .ldZInc d => [encR 0b1001000#7 d 0b0001#4]
  | .ldZDec d => [encR 0b1001000#7 d 0b0010#4]
  | .lpmZ d => [encR 0b1001000#7 d 0b0100#4]
  | .lpmZInc d => [encR 0b1001000#7 d 0b0101#4]
  | .ldYInc d => [encR 0b1001000#7 d 0b1001#4]
  | .ldYDec d => [encR 0b1001000#7 d 0b1010#4]
  | .ldX d => [encR 0b1001000#7 d 0b1100#4]
  | .ldXInc d => [encR 0b1001000#7 d 0b1101#4]
  | .ldXDec d => [encR 0b1001000#7 d 0b1110#4]
  | .pop d => [encR 0b1001000#7 d 0b1111#4]
  | .sts a r => [encR 0b1001001#7 r 0b0000#4, a]
  | .stZInc r => [encR 0b1001001#7 r 0b0001#4]
  | .stZDec r => [encR 0b1001001#7 r 0b0010#4]
  | .stYInc r => [encR 0b1001001#7 r 0b1001#4]
  | .stYDec r => [encR 0b1001001#7 r 0b1010#4]
  | .stX r => [encR 0b1001001#7 r 0b1100#4]
  | .stXInc r => [encR 0b1001001#7 r 0b1101#4]
  | .stXDec r => [encR 0b1001001#7 r 0b1110#4]
  | .push r => [encR 0b1001001#7 r 0b1111#4]
  | .com d => [encR 0b1001010#7 d 0b0000#4]
  | .neg d => [encR 0b1001010#7 d 0b0001#4]
  | .swap d => [encR 0b1001010#7 d 0b0010#4]
  | .inc d => [encR 0b1001010#7 d 0b0011#4]
  | .asr d => [encR 0b1001010#7 d 0b0101#4]
  | .lsr d => [encR 0b1001010#7 d 0b0110#4]
  | .ror d => [encR 0b1001010#7 d 0b0111#4]
  | .bset f => [encS 0b100101000#9 f]
  | .bclr f => [encS 0b100101001#9 f]
  | .ret => [0x9508]
  | .reti => [0x9518]
  | .sleep => [0x9588]
  | .brk => [0x9598]
  | .wdr => [0x95A8]
  | .lpm => [0x95C8]
  | .ijmp => [0x9409]
  | .icall => [0x9509]
  | .dec d => [encR 0b1001010#7 d 0b1010#4]
  | .jmp k => [encAbs22 0b110#3 k, k.extractLsb' 0 16]
  | .call k => [encAbs22 0b111#3 k, k.extractLsb' 0 16]
  | .adiw d k6 => [encWI 0b10010110#8 d k6]
  | .sbiw d k6 => [encWI 0b10010111#8 d k6]
  | .cbi a b => [encIOB 0b10011000#8 a b]
  | .sbic a b => [encIOB 0b10011001#8 a b]
  | .sbi a b => [encIOB 0b10011010#8 a b]
  | .sbis a b => [encIOB 0b10011011#8 a b]
  | .mul d r => [encRR 0b100111#6 d r]
  | .ioIn d a => [encIO 0b10110#5 d a]
  | .ioOut a r => [encIO 0b10111#5 r a]
  | .rjmp k => [0b1100#4 ++ k]
  | .rcall k => [0b1101#4 ++ k]
  | .ldi d k8 => [encRI 0b1110#4 d k8]
  | .brbs f k => [encBR 0b111100#6 f k]
  | .brbc f k => [encBR 0b111101#6 f k]
  | .bld d b => [encRB 0b1111100#7 d b]
  | .bst d b => [encRB 0b1111101#7 d b]
  | .sbrc r b => [encRB 0b1111110#7 r b]
  | .sbrs r b => [encRB 0b1111111#7 r b]

/-- The bytes of an instruction's words as flash stores them (R62, R82). -/
def bytesOfWords : List Word → List Byte
  | [] => []
  | w :: rest => w.extractLsb' 0 8 :: w.extractLsb' 8 8 :: bytesOfWords rest

end Sys2Proof
end

