-- ==== Sys2Proof/Machine/Flags.lean ====
section
/-! DEFINITION. The status flags (spec/10_state.md R24, R25) and every flag computation of the spec
(40_arithmetic.md R130 to R132, R143, R144; 41_logic_and_bit.md R150, R157; 42_multiply.md R170). -/

namespace Sys2Proof.Machine

/-- The eight flags, in the order of their numbers 0 to 7 (R24). -/
structure Flags where
  c : Bool
  z : Bool
  n : Bool
  v : Bool
  s : Bool
  h : Bool
  t : Bool
  i : Bool
  deriving DecidableEq, Repr

/-- All flags 0 (R48). -/
def flagsZero : Flags := ⟨false, false, false, false, false, false, false, false⟩

/-- `F[k]` (R24). -/
def Flags.get (f : Flags) : BitNo → Bool
  | 0 => f.c
  | 1 => f.z
  | 2 => f.n
  | 3 => f.v
  | 4 => f.s
  | 5 => f.h
  | 6 => f.t
  | 7 => f.i

/-- `F[k] <- b` (R24). -/
def Flags.put (f : Flags) (k : BitNo) (b : Bool) : Flags :=
  match k with
  | 0 => { f with c := b }
  | 1 => { f with z := b }
  | 2 => { f with n := b }
  | 3 => { f with v := b }
  | 4 => { f with s := b }
  | 5 => { f with h := b }
  | 6 => { f with t := b }
  | 7 => { f with i := b }

/-- The SREG byte `F.I:F.T:F.H:F.S:F.V:F.N:F.Z:F.C` (R25, R71). -/
def Flags.toByte (f : Flags) : Byte :=
  BitVec.ofBool f.i ++ BitVec.ofBool f.t ++ BitVec.ofBool f.h ++ BitVec.ofBool f.s
    ++ BitVec.ofBool f.v ++ BitVec.ofBool f.n ++ BitVec.ofBool f.z ++ BitVec.ofBool f.c

/-- `F[s] <- v[s]` for s = 0 to 7 (R25, R72). -/
def flagsOfByte (v : Byte) : Flags where
  c := v.getLsbD 0
  z := v.getLsbD 1
  n := v.getLsbD 2
  v := v.getLsbD 3
  s := v.getLsbD 4
  h := v.getLsbD 5
  t := v.getLsbD 6
  i := v.getLsbD 7

/-- N, V and Z written, and S as N xor V (R24). -/
def Flags.nvz (f : Flags) (n v z : Bool) : Flags := { f with n := n, v := v, s := n ^^ v, z := z }

/-- A result and the flags it leaves. -/
structure Alu (w : Nat) where
  result : BitVec w
  flags : Flags
  deriving DecidableEq, Repr

/-- `AddFlags8(a, b, c)` (R130). -/
def addFlags8 (a b : Byte) (c : Bool) (f : Flags) : Alu 8 :=
  let sum := a.toNat + b.toNat + c.toNat
  let r := BitVec.ofNat 8 sum
  ⟨r, { f with c := decide (256 ≤ sum), h := decide (16 ≤ a.toNat % 16 + b.toNat % 16 + c.toNat) }.nvz
    r.msb (decide (r.toInt ≠ a.toInt + b.toInt + c.toNat)) (decide (r = 0))⟩

/-- `SubFlags8(a, b, c, inclZ)` (R131): with `inclZ`, Z is only ever cleared. -/
def subFlags8 (a b : Byte) (c inclZ : Bool) (f : Flags) : Alu 8 :=
  let r := BitVec.ofInt 8 ((a.toNat : Int) - b.toNat - c.toNat)
  ⟨r, { f with c := decide (a.toNat < b.toNat + c.toNat), h := decide (a.toNat % 16 < b.toNat % 16 + c.toNat) }.nvz
    r.msb (decide (r.toInt ≠ a.toInt - b.toInt - c.toNat)) (decide (r = 0) && (if inclZ then f.z else true))⟩

/-- `WordFlags16`, ADIW line (R132). H is not written. -/
def addWord16 (a : Word) (k : BitVec 6) (f : Flags) : Alu 16 :=
  let sum := a.toNat + k.toNat
  let r := BitVec.ofNat 16 sum
  ⟨r, { f with c := decide (65536 ≤ sum) }.nvz r.msb (!a.msb && r.msb) (decide (r = 0))⟩

/-- `WordFlags16`, SBIW line (R132). H is not written. -/
def subWord16 (a : Word) (k : BitVec 6) (f : Flags) : Alu 16 :=
  let r := BitVec.ofInt 16 ((a.toNat : Int) - k.toNat)
  ⟨r, { f with c := decide (a.toNat < k.toNat) }.nvz r.msb (a.msb && !r.msb) (decide (r = 0))⟩

/-- INC (R143): C and H are not written. -/
def incFlags8 (a : Byte) (f : Flags) : Alu 8 :=
  let r := BitVec.ofNat 8 (a.toNat + 1)
  ⟨r, f.nvz r.msb (decide (r = 0x80)) (decide (r = 0))⟩

/-- DEC (R144): C and H are not written. -/
def decFlags8 (a : Byte) (f : Flags) : Alu 8 :=
  let r := BitVec.ofInt 8 ((a.toNat : Int) - 1)
  ⟨r, f.nvz r.msb (decide (r = 0x7F)) (decide (r = 0))⟩

/-- `LogicFlags(r)` (R150): V cleared, so S = N; C not written. -/
def logicFlags (r : Byte) (f : Flags) : Alu 8 := ⟨r, f.nvz r.msb false (decide (r = 0))⟩

/-- COM (R156): the logic flags, and C set. -/
def comFlags (a : Byte) (f : Flags) : Alu 8 :=
  let r := BitVec.ofNat 8 (255 - a.toNat)
  ⟨r, { (logicFlags r f).flags with c := true }⟩

/-- `ShiftFlags(r, c0)` (R157): V = N xor C, from the new N and C. -/
def shiftFlags (r : Byte) (c0 : Bool) (f : Flags) : Alu 8 :=
  ⟨r, { f with c := c0 }.nvz r.msb (r.msb ^^ c0) (decide (r = 0))⟩

/-- The plain multiply forms (R170): C is bit 15 of the product pattern, Z that it is 0. -/
def mulFlags (p : Word) (f : Flags) : Alu 16 := ⟨p, { f with c := p.msb, z := decide (p = 0) }⟩

/-- The fractional multiply forms (R170): C is bit 15 before the shift, Z that the shifted product is 0. -/
def fmulFlags (p : Word) (f : Flags) : Alu 16 :=
  let q := BitVec.ofNat 16 (p.toNat * 2)
  ⟨q, { f with c := p.msb, z := decide (q = 0) }⟩

end Sys2Proof.Machine
end

