-- ==== Sys2Proof/Machine/Memory.lean ====
section
/-! DEFINITION. A byte-addressed space as a list of (address, byte) pairs in one canonical form: addresses strictly
rising, no entry equal to what an unlisted address reads as. -/

namespace Sys2Proof.Machine

/-- The listed bytes of one address space (spec/20_memory.md R60, R61, R64). -/
abbrev Memory := List Host.Cell

/-- What an unlisted address reads as: 0x00. For flash and the I/O window it is the spec's value (R61, 10_state.md R48);
for SRAM and the EEPROM it is this model's DESIGN CHOICE (log entries 3 and 4), unsafe. -/
def Memory.unlisted : Byte := 0

/-- The byte at `a`. -/
def Memory.read : Memory → Nat → Byte
  | [], _ => Memory.unlisted
  | (b, x) :: rest, a => if b = a then x else Memory.read rest a

/-- Every entry for `a` taken out. -/
def Memory.erase (m : Memory) (a : Nat) : Memory := m.filter (fun c => decide (c.1 ≠ a))

/-- The entry (a, v) put before the first entry of a higher address. -/
def Memory.insert : Memory → Nat → Byte → Memory
  | [], a, v => [(a, v)]
  | (b, x) :: rest, a, v => if a < b then (a, v) :: (b, x) :: rest else (b, x) :: Memory.insert rest a v

/-- Store `v` at `a`, keeping the canonical form. -/
def Memory.write (m : Memory) (a : Nat) (v : Byte) : Memory :=
  if v = Memory.unlisted then Memory.erase m a else Memory.insert (Memory.erase m a) a v

/-- Store consecutive bytes from `a` on. -/
def Memory.writeBytes : Memory → Nat → List Byte → Memory
  | m, _, [] => m
  | m, a, v :: rest => Memory.writeBytes (Memory.write m a v) (a + 1) rest

/-- Canonical form with every address at least `lo`. -/
def Memory.wfFrom : Nat → Memory → Bool
  | _, [] => true
  | lo, (b, x) :: rest => decide (lo ≤ b) && decide (x ≠ Memory.unlisted) && Memory.wfFrom (b + 1) rest

/-- The canonical form. -/
def Memory.wf (m : Memory) : Bool := Memory.wfFrom 0 m

/-- Every listed address is in [lo, hi). -/
def Memory.within (lo hi : Nat) (m : Memory) : Bool := m.all (fun c => decide (lo ≤ c.1) && decide (c.1 < hi))

end Sys2Proof.Machine
end

