-- ==== Sys2Proof/Machine/Timing.lean ====
section
/-! DEFINITION. The cases of `CYC` and its default counts (spec/70_reset_and_hazards.md R360, log entry 12). `CYC` itself is a
parameter a state carries (00_scope.md R8, Machine/Params.lean). -/

namespace Sys2Proof.Machine

/-- `(mnemonic, case)`, the argument of `CYC` (00_scope.md R8): a branch by whether it is taken, a skip by the words it
skips (0 not taken, 1 or 2), every other mnemonic in one case (R360: no count depends on anything else). -/
inductive CycCase where
  | add | adc | sub | subi | sbc | sbci | cp | cpc | cpi | neg | inc | dec | adiw | sbiw
  | and | andi | or | ori | eor | com | lsr | ror | asr | swap | bset | bclr | bst | bld | sbi | cbi
  | mul | muls | mulsu | fmul | fmuls | fmulsu
  | rjmp | ijmp | jmp
  | brbs (taken : Bool) | brbc (taken : Bool)
  | cpse (skipped : Nat) | sbrc (skipped : Nat) | sbrs (skipped : Nat) | sbic (skipped : Nat) | sbis (skipped : Nat)
  | rcall | icall | call | ret | reti | push | pop
  | mov | movw | ldi | ld | ldd | lds | st | std | sts | lpm | ioIn | ioOut
  | nop | sleep | wdr | brk
  deriving DecidableEq, Repr

/-- A branch: 2 taken, 1 not taken (R360). -/
def cycBranch (taken : Bool) : Nat := if taken then 2 else 1

/-- A skip: 1 not taken, 2 over one word, 3 over two (R360). -/
def cycSkip (skipped : Nat) : Nat := 1 + skipped

/-- The table of R360. -/
def cycDefault : CycCase → Nat
  | .brbs taken => cycBranch taken
  | .brbc taken => cycBranch taken
  | .cpse skipped => cycSkip skipped
  | .sbrc skipped => cycSkip skipped
  | .sbrs skipped => cycSkip skipped
  | .sbic skipped => cycSkip skipped
  | .sbis skipped => cycSkip skipped
  | .rjmp => 2
  | .ijmp => 2
  | .jmp => 3
  | .rcall => 4
  | .icall => 4
  | .call => 5
  | .ret => 5
  | .reti => 5
  | .ld => 2
  | .ldd => 2
  | .st => 2
  | .std => 2
  | .lds => 2
  | .sts => 2
  | .push => 2
  | .pop => 2
  | .lpm => 3
  | .sbi => 2
  | .cbi => 2
  | .adiw => 2
  | .sbiw => 2
  | .mul => 2
  | .muls => 2
  | .mulsu => 2
  | .fmul => 2
  | .fmuls => 2
  | .fmulsu => 2
  | .add => 1
  | .adc => 1
  | .sub => 1
  | .subi => 1
  | .sbc => 1
  | .sbci => 1
  | .cp => 1
  | .cpc => 1
  | .cpi => 1
  | .neg => 1
  | .inc => 1
  | .dec => 1
  | .com => 1
  | .and => 1
  | .andi => 1
  | .or => 1
  | .ori => 1
  | .eor => 1
  | .lsr => 1
  | .ror => 1
  | .asr => 1
  | .swap => 1
  | .bset => 1
  | .bclr => 1
  | .bst => 1
  | .bld => 1
  | .mov => 1
  | .movw => 1
  | .ldi => 1
  | .ioIn => 1
  | .ioOut => 1
  | .nop => 1
  | .sleep => 1
  | .wdr => 1
  | .brk => 1

end Sys2Proof.Machine
end

