-- ==== Sys2Proof/Machine/Params.lean ====
section
/-! DEFINITION. The configuration record of spec/00_scope.md R8, and the host options of R347, as plain data a state carries:
no instruction changes it, so a claim about every state is a claim about every value of these parameters. -/

namespace Sys2Proof.Machine

/-- `T4_COMPARE(state)`, the open function of R8 and R321 (log entry 8), as data. -/
inductive T4Compare where
  /-- A function of the I/O registers: the value an entry gives for the 224 bytes of data 0x20 to 0xFF, and for every other
  image the suggestion of R321, OCR4A zero-extended. Without entries it is the suggestion. -/
  | table (entries : List (List Byte × BitVec 10))
  /-- Any function of the whole state: number `n` of Config's opaque ones (Machine/OpenConfig.lean). -/
  | openFunction (n : Nat)
  deriving DecidableEq, Repr

/-- The open parameters of R8, and the host options `flags` selects (70_reset_and_hazards.md R347). -/
structure Params where
  /-- `SP_RESET` -/
  spReset : Word
  /-- `CYC`: the cases whose count is not the default of R360; the first entry of a case holds -/
  cycOverrides : List (CycCase × Nat)
  /-- `IRQ_ENTRY_CYCLES` -/
  irqEntryCycles : Nat
  /-- `WAKEUP_CYCLES` -/
  wakeupCycles : Nat
  /-- `EEPROM_WE_CYCLES` -/
  eepromWeCycles : Nat
  /-- `PLL_LOCK_CYCLES` -/
  pllLockCycles : Nat
  /-- `ADC_CONV_CYCLES` -/
  adcConvCycles : Nat
  /-- `T4_DIV`, by the four bits of TCCR4B[3:0] -/
  t4Div : Vector Nat 16
  /-- `T4_TOP` -/
  t4Top : Nat
  /-- `T4_COMPARE` -/
  t4Compare : T4Compare
  /-- `T4_TOGGLE`, a function of DDRC and TCCR4A (R321): the pairs for which it is not the suggestion of R321 -/
  t4Toggle : List ((Byte × Byte) × Byte)
  /-- whether the host attached `SPI_CALLBACK` -/
  spiAttached : Bool
  /-- `flags` of R347: the debugger's callbacks of 60_exceptions.md R305 are attached -/
  debugHooks : Bool
  /-- `flags` of R347: the profiler's sample callback of R305 is attached -/
  analyticsHooks : Bool
  deriving DecidableEq, Repr

/-- `CYC(mnemonic, case)` (R8, 70_reset_and_hazards.md R360, R361): the override, else the default. -/
def Params.cyc (p : Params) (c : CycCase) : Nat := (p.cycOverrides.lookup c).getD (cycDefault c)

/-- The parameters State.reset carries (log entry 7): R8's defaults (CYC the table of R360, IRQ_ENTRY_CYCLES 0, no SPI
callback) and suggested SP_RESET (log entry 2); R8's and R321's suggestions where there is no default (EEPROM_WE_CYCLES 4, and
timer4's four, log entry 8; DESIGN CHOICE, unsafe); else the opaque constants of Config, which have no value; no host options. -/
def resetParams : Params where
  spReset := 0x0AFF
  cycOverrides := []
  irqEntryCycles := 0
  wakeupCycles := Config.wakeupCycles
  eepromWeCycles := 4
  pllLockCycles := Config.pllLockCycles
  adcConvCycles := Config.adcConvCycles
  t4Div := #v[0, 1, 2, 4, 8, 16, 32, 64, 128, 256, 512, 1024, 2048, 4096, 8192, 16384]
  t4Top := 1023
  t4Compare := .table []
  t4Toggle := []
  spiAttached := false
  debugHooks := false
  analyticsHooks := false

end Sys2Proof.Machine
end

