-- ==== Sys2Proof/Machine/State.lean ====
section
/-! DEFINITION. The state of the machine as plain data (spec/10_state.md), why it stops, and State.reset (R48). -/

namespace Sys2Proof.Machine

/-- `LastSet` (R34): per-peripheral cycle timestamps. -/
structure LastSet where
  /-- EEPROM write-enable -/
  eewe : Nat
  /-- PLL enable -/
  pll : Nat
  /-- timer0 baseline -/
  t0 : Nat
  /-- timer3 baseline -/
  t3 : Nat
  /-- timer4 baseline -/
  t4 : Nat
  /-- ADC start (90_conflicts.md C3) -/
  adc : Nat
  deriving DecidableEq, Repr

/-- The I/O ports whose writes the host is told of (R46). They are named, the spec gives no numbering (log entry 10). -/
inductive Port where
  | b | c | d | e | f
  deriving DecidableEq, Repr

/-- A call the machine makes to the host (70_reset_and_hazards.md R349). -/
inductive HostEvent where
  /-- The pin-change callback `(port_id, old_value, new_value)` (R46, 20_memory.md R81). -/
  | pinChange (port : Port) (old new : Byte)
  /-- The SPI byte-shift callback with the written byte (20_memory.md R77). -/
  | spiShift (sent : Byte)
  /-- The breakpoint-check callback, once per fetched instruction (60_exceptions.md R305, 70_reset_and_hazards.md R345). -/
  | breakpointCheck
  /-- The sample callback `(opcode_index, PC)` (60_exceptions.md R305); the opcodes' numbering is the model's (log entry 10). -/
  | sample (opcodeIndex : Nat) (pc : Word)
  /-- The call-stack push notification (60_exceptions.md R305, R286). -/
  | callStackPush
  /-- The call-stack pop notification (60_exceptions.md R305). -/
  | callStackPop
  /-- The call-stack notification of a write to SPL or SPH (R27, R38). -/
  | stackPointerWrite
  deriving DecidableEq, Repr

/-- Everything the machine holds. -/
structure State where
  /-- R0 to R31 (R20) -/
  gpr : Vector Byte 32
  /-- the status flags, SREG (R24, R25) -/
  flags : Flags
  /-- the stack pointer, SPH:SPL (R26) -/
  sp : Word
  /-- the program counter, a word address (R22) -/
  pc : Word
  /-- the cycle counter (R28) -/
  cycles : Nat
  /-- the sleep flag (R29) -/
  sleeping : Bool
  /-- the pending-interrupt mask, bit n for vector n (R30) -/
  pending : BitVec 43
  /-- the re-entrancy flag (R31) -/
  insideInterrupt : Bool
  /-- a program is loaded (R33) -/
  hasProgram : Bool
  /-- the peripheral timestamps (R34) -/
  last : LastSet
  /-- timer3's memo (R35) -/
  t3Triggered : Bool
  /-- data addresses 0x20 to 0xAFF, but for 0x5D, 0x5E (in `sp`) and 0x5F (in `flags`) (R36, R38) -/
  data : Memory
  /-- EEPROM addresses 0 to 1023 (R37) -/
  eeprom : Memory
  /-- flash byte addresses 0 to 32767 (20_memory.md R61) -/
  flash : Memory
  /-- the configuration record (00_scope.md R8) -/
  params : Params
  /-- the model's own: the index of the next free value (log entry 9) -/
  draws : Nat
  /-- the model's own: the host callbacks made so far, newest first (log entry 10) -/
  hostLog : List HostEvent
  deriving DecidableEq, Repr

/-- Why the machine stops (60_exceptions.md R270): the code and the value the fault state records. Each is safe: the
machine halts, as R270 says. -/
inductive Fault where
  /-- 1.F, safe. Raised by a fetch, a second-word fetch, a taken skip's look, JMP, CALL and LPM outside flash. -/
  | outOfRangeFlash (a : Nat)
  /-- 1.D, safe. Raised by MemRead and MemWrite at or above 2816. -/
  | outOfRangeData (a : Nat)
  /-- 1.E, safe. Raised by the EECR write hook with an EEPROM address at or above 1024. -/
  | outOfRangeEeprom (a : Nat)
  /-- 1.S, safe. Raised by a stack access outside [0x0100, 0x0B00). -/
  | outOfRangeStack (a : Nat)
  /-- 2, safe. Raised by a fetch of a first word that matches no opcode row: the word and its address. -/
  | unhandledOpcode (w pc : Word)
  deriving DecidableEq, Repr

/-- Situations the spec gives no meaning to (00_scope.md R13). Each is safe: nothing can be proved of what follows. -/
inductive Refusal where
  /-- Safe. Raised by an arm of exec whose instruction has no meaning yet. -/
  | notModelled (mnemonic : String)
  /-- Safe. Raised by a step while no program is loaded (10_state.md R33, U20). -/
  | noProgram
  /-- Safe. Raised by a pre-decrement or post-increment form whose data register is part of its pointer
  (45_data_transfer.md R238, U3). -/
  | pointerOverlap
  /-- Safe. Raised by an EEPROM write in the reserved mode 3 (20_memory.md R74, U7). -/
  | eepromMode3
  /-- Safe. Raised by SLEEP enabled in a mode other than idle (46_system.md R261, U8). -/
  | sleepModeNotIdle
  /-- Safe. Raised where timer0's divisor is needed with clock select 6 or 7 (60_exceptions.md R311, U9). -/
  | timer0ClockSelect
  /-- Safe. Raised where timer3's divisor is needed with waveform bits set or clock select 6 or 7
  (60_exceptions.md R317, U10). -/
  | timer3Mode
  deriving DecidableEq, Repr

/-- How a part of a step ends without a result. -/
inductive Stop where
  /-- `raise <Fault>(info)` (00_scope.md R11) -/
  | fault (f : Fault)
  /-- a refusal (00_scope.md R13) -/
  | refused (r : Refusal)
  deriving DecidableEq, Repr

/-- The result of a part of a step: nothing of a part that stops is kept (60_exceptions.md R274). -/
abbrev Res (α : Type) := Except Stop α

/-- The machine right after reset, nothing loaded (R48, 70_reset_and_hazards.md R340). R0 to R31, SRAM and EEPROM are
unspecified there: 0x00 is this model's DESIGN CHOICE (log entries 1, 3, 4), unsafe. -/
def State.reset : State where
  gpr := Vector.replicate 32 0
  flags := flagsZero
  sp := resetParams.spReset
  pc := 0
  cycles := 0
  sleeping := false
  pending := 0
  insideInterrupt := false
  hasProgram := false
  last := ⟨0, 0, 0, 0, 0, 0⟩
  t3Triggered := false
  data := []
  eeprom := []
  flash := []
  params := resetParams
  draws := 0
  hostLog := []

end Sys2Proof.Machine
end

