-- ==== Sys2Proof/Machine/IoMap.lean ====
section
/-! DEFINITION. The data addresses of the named I/O registers (spec/10_state.md R38) and the four interrupt sources
(60_exceptions.md R281). -/

namespace Sys2Proof.Machine

/-- The first data address with I/O side effects, `IO_START` (00_scope.md R8). -/
def ioStart : Nat := 0x20

/-- The first plain SRAM address, `SRAM_START`, also the low end of the stack window (00_scope.md R8, 90_conflicts.md C1). -/
def sramStart : Nat := 0x100

/-- PORTB -/
def aPORTB : Nat := 0x25
/-- DDRC -/
def aDDRC : Nat := 0x27
/-- PORTC -/
def aPORTC : Nat := 0x28
/-- PORTD -/
def aPORTD : Nat := 0x2B
/-- PORTE -/
def aPORTE : Nat := 0x2E
/-- PORTF -/
def aPORTF : Nat := 0x31
/-- TIFR0 (R41) -/
def aTIFR0 : Nat := 0x35
/-- TIFR3 (R42) -/
def aTIFR3 : Nat := 0x38
/-- TIFR4 (R43) -/
def aTIFR4 : Nat := 0x39
/-- EECR (R44) -/
def aEECR : Nat := 0x3F
/-- EEDR (R44) -/
def aEEDR : Nat := 0x40
/-- EEARL (R44) -/
def aEEARL : Nat := 0x41
/-- EEARH (R44) -/
def aEEARH : Nat := 0x42
/-- TCCR0B (R40) -/
def aTCCR0B : Nat := 0x45
/-- TCNT0 (R41) -/
def aTCNT0 : Nat := 0x46
/-- PLLCSR (R45) -/
def aPLLCSR : Nat := 0x49
/-- SPDR (R45) -/
def aSPDR : Nat := 0x4E
/-- SMCR (R39) -/
def aSMCR : Nat := 0x53
/-- SPL (R26) -/
def aSPL : Nat := 0x5D
/-- SPH (R26) -/
def aSPH : Nat := 0x5E
/-- SREG (R25) -/
def aSREG : Nat := 0x5F
/-- TIMSK0 (R41) -/
def aTIMSK0 : Nat := 0x6E
/-- TIMSK3 (R42) -/
def aTIMSK3 : Nat := 0x71
/-- TIMSK4 (R43) -/
def aTIMSK4 : Nat := 0x72
/-- ADCSRA (R45) -/
def aADCSRA : Nat := 0x7A
/-- TCCR3A (R42) -/
def aTCCR3A : Nat := 0x90
/-- TCCR3B (R42) -/
def aTCCR3B : Nat := 0x91
/-- TCNT3L (R42) -/
def aTCNT3L : Nat := 0x94
/-- TCNT3H (R42) -/
def aTCNT3H : Nat := 0x95
/-- OCR3AL (R42) -/
def aOCR3AL : Nat := 0x98
/-- OCR3AH (R42) -/
def aOCR3AH : Nat := 0x99
/-- TCNT4 (R43) -/
def aTCNT4 : Nat := 0xBE
/-- TC4H (R43) -/
def aTC4H : Nat := 0xBF
/-- TCCR4A (R43) -/
def aTCCR4A : Nat := 0xC0
/-- TCCR4B (R43) -/
def aTCCR4B : Nat := 0xC1
/-- OCR4A (R43) -/
def aOCR4A : Nat := 0xCF

/-- The port whose write at this data address the host is told of (R46, 20_memory.md R81). -/
def portAt (a : Nat) : Option Port :=
  if a = aPORTB then some .b
  else if a = aPORTC then some .c
  else if a = aPORTD then some .d
  else if a = aPORTE then some .e
  else if a = aPORTF then some .f
  else none

/-- An interrupt source: its vector number, its flag bit and its enable bit (60_exceptions.md R281). -/
structure IrqSource where
  vector : Fin 43
  flagReg : Nat
  flagBit : Nat
  maskReg : Nat
  maskBit : Nat
  deriving DecidableEq, Repr

/-- TIMER0_OVF -/
def irqTimer0Ovf : IrqSource := ⟨23, aTIFR0, 0, aTIMSK0, 0⟩
/-- TIMER3_COMPA -/
def irqTimer3CompA : IrqSource := ⟨32, aTIFR3, 1, aTIMSK3, 1⟩
/-- TIMER4_COMPA -/
def irqTimer4CompA : IrqSource := ⟨38, aTIFR4, 6, aTIMSK4, 6⟩
/-- TIMER4_OVF -/
def irqTimer4Ovf : IrqSource := ⟨41, aTIFR4, 2, aTIMSK4, 2⟩

/-- "these four are the only sources this machine ever raises" (60_exceptions.md R281). -/
def irqSources : List IrqSource := [irqTimer0Ovf, irqTimer3CompA, irqTimer4CompA, irqTimer4Ovf]

end Sys2Proof.Machine
end

