-- ==== Sys2Proof/Machine/OpenConfig.lean ====
section
/-! DEFINITION. The open function of spec/00_scope.md R8 that takes the whole state: no body, so nothing proved here can
depend on its values. -/

namespace Sys2Proof

/-- `T4_COMPARE` (R8, R321) where the parameters name an open function: number `n`, of the whole state. -/
opaque Config.t4Compare : Nat → Machine.State → BitVec 10

end Sys2Proof
end

