-- ==== Sys2Proof/Machine/Ops.lean ====
section
/-! DEFINITION. The named operations over registers and memory (spec/00_scope.md R11), the flash words and bytes
(20_memory.md R62, R63), the stack (44_call_return_stack.md R195, R196, R204), taking an interrupt (60_exceptions.md R286)
and the return from one (44_call_return_stack.md R201). -/

namespace Sys2Proof.Machine

/-- The answer of a meaning: a stop keeps nothing of the instruction (60_exceptions.md R274). -/
def outcome : Res State → Host.Outcome State Fault Refusal
  | .ok t => .next t
  | .error (.fault f) => .fault f
  | .error (.refused r) => .refused r

/-- `raise <Fault>(info)` (R11). -/
def raise {α : Type} (f : Fault) : Res α := .error (.fault f)

/-- A refusal (R13). -/
def refuse {α : Type} (r : Refusal) : Res α := .error (.refused r)

/-! ## Bytes and bits (R10) -/

/-- `v[7:0]` of a word. -/
def lo8 (w : Word) : Byte := w.extractLsb' 0 8

/-- `v[15:8]` of a word. -/
def hi8 (w : Word) : Byte := w.extractLsb' 8 8

/-- `hi:lo`. -/
def word16 (hi lo : Byte) : Word := hi ++ lo

/-- `v` with bit `i` set. -/
def setBit (v : Byte) (i : Nat) : Byte := v ||| (1#8 <<< i)

/-- `v` with bit `i` cleared. -/
def clearBit (v : Byte) (i : Nat) : Byte := v &&& ~~~(1#8 <<< i)

/-! ## Registers -/

/-- `R[i]` (10_state.md R20). -/
def State.reg (s : State) (i : Reg) : Byte := s.gpr[i.val]

/-- `R[i] <- v` (R20). -/
def State.setReg (s : State) (i : Reg) (v : Byte) : State := { s with gpr := s.gpr.set i.val v }

/-- `RW[i]`, the pair `R[i+1]:R[i]` (R11, R21). -/
def State.pair (s : State) (i : Reg) : Word := word16 (s.reg (i + 1)) (s.reg i)

/-- `RW[i] <- v` (R11). -/
def State.setPair (s : State) (i : Reg) (v : Word) : State := (s.setReg i (lo8 v)).setReg (i + 1) (hi8 v)

/-- The flags replaced. -/
def State.setFlags (s : State) (f : Flags) : State := { s with flags := f }

/-- `SP <- v` (R26). -/
def State.setSp (s : State) (v : Word) : State := { s with sp := v }

/-- `CYC(mnemonic, case)` (R8). -/
def State.cyc (s : State) (c : CycCase) : Nat := s.params.cyc c

/-- `pc <- target ; cycles <- cycles + n` (00_scope.md R12). -/
def State.jump (s : State) (target : Word) (n : Nat) : State := { s with pc := target, cycles := s.cycles + n }

/-- `pc <- pc + words ; cycles <- cycles + n` (00_scope.md R12). -/
def State.advance (s : State) (words n : Nat) : State := s.jump (s.pc + BitVec.ofNat 16 words) n

/-! ## The data space without hooks (20_memory.md R60) -/

/-- The stored byte of an I/O, extended I/O or SRAM address that is not SPL, SPH or SREG. -/
def State.byteAt (s : State) (a : Nat) : Byte := s.data.read a

/-- Store such a byte. -/
def State.setByte (s : State) (a : Nat) (v : Byte) : State := { s with data := s.data.write a v }

/-- `data[a]`: each of the 2816 bytes from the one place that holds it (R60, 10_state.md R20, R25, R26). -/
def State.rawRead (s : State) (a : Nat) : Byte :=
  if h : a < 32 then s.reg ⟨a, h⟩
  else if a = aSPL then lo8 s.sp
  else if a = aSPH then hi8 s.sp
  else if a = aSREG then s.flags.toByte
  else s.byteAt a

/-- `data[a] <- v`: to the one place that holds the byte. At SREG this is the decomposition of R72. -/
def State.rawWrite (s : State) (a : Nat) (v : Byte) : State :=
  if h : a < 32 then s.setReg ⟨a, h⟩ v
  else if a = aSPL then s.setSp (word16 (hi8 s.sp) v)
  else if a = aSPH then s.setSp (word16 v (lo8 s.sp))
  else if a = aSREG then s.setFlags (flagsOfByte v)
  else s.setByte a v

/-! ## Flash (20_memory.md R61 to R63) -/

/-- The flash byte at a byte address in range. -/
def State.flashAt (s : State) (b : Nat) : Byte := s.flash.read b

/-- `FlashWord(a)` (R62). -/
def State.flashWord (s : State) (a : Nat) : Res Word :=
  if a < Config.flashWords then .ok (word16 (s.flashAt (2 * a + 1)) (s.flashAt (2 * a))) else raise (.outOfRangeFlash a)

/-- `FlashByte(b)` (R63). -/
def State.flashByte (s : State) (b : Nat) : Res Byte :=
  if b < Config.flashBytes then .ok (s.flashAt b) else raise (.outOfRangeFlash b)

/-! ## Host callbacks (70_reset_and_hazards.md R349, log entry 10) -/

/-- A callback to the host; it changes nothing else. -/
def State.callHost (s : State) (e : HostEvent) : State := { s with hostLog := e :: s.hostLog }

/-- A call of a debugger callback (60_exceptions.md R305), where the host attached them (R347). -/
def State.notify (s : State) (e : HostEvent) : State :=
  { s with hostLog := if s.params.debugHooks then e :: s.hostLog else s.hostLog }

/-! ## The stack (44_call_return_stack.md R204) -/

/-- The stack window [0x0100, 0x0B00). -/
def inStack (a : Word) : Bool := decide (sramStart ≤ a.toNat) && decide (a.toNat < Config.dataSize)

/-- The check of R204 on one byte address. -/
def checkStack (a : Word) : Res Unit := if inStack a then .ok () else raise (.outOfRangeStack a.toNat)

/-- `PushAddr(a)` (R195): low byte at SP, high byte at SP − 1, both checked before either is written; the call-stack hook is
notified (60_exceptions.md R305, R286). -/
def pushAddr (a : Word) (s : State) : Res State := do
  checkStack s.sp
  checkStack (s.sp - 1)
  .ok ((((s.setByte s.sp.toNat (lo8 a)).setByte (s.sp - 1).toNat (hi8 a)).setSp (s.sp - 2)).notify .callStackPush)

/-- `PopAddr()` (R196); the call-stack hook is notified (60_exceptions.md R305). -/
def popAddr (s : State) : Res (Word × State) := do
  checkStack (s.sp + 1)
  checkStack (s.sp + 2)
  .ok (word16 (s.byteAt (s.sp + 1).toNat) (s.byteAt (s.sp + 2).toNat), (s.setSp (s.sp + 2)).notify .callStackPop)

/-- Store one byte at SP and decrement (R202). -/
def pushByte (v : Byte) (s : State) : Res State := do
  checkStack s.sp
  .ok ((s.setByte s.sp.toNat v).setSp (s.sp - 1))

/-- Increment SP and load one byte (R203). -/
def popByte (s : State) : Res (Byte × State) := do
  checkStack (s.sp + 1)
  .ok (s.byteAt (s.sp + 1).toNat, s.setSp (s.sp + 1))

/-! ## Interrupt entry and return -/

/-- "clear the flag bit of the source with VEC = n" (60_exceptions.md R286). -/
def clearSourceFlag (n : Fin 43) (s : State) : State :=
  match irqSources.find? (fun src => decide (src.vector = n)) with
  | some src => s.setByte src.flagReg (clearBit (s.byteAt src.flagReg) src.flagBit)
  | none => s

/-- The cycles an interrupt entry charges (R286): the entry's, and the wake-up penalty when asleep. -/
def entryCycles (s : State) : Nat := s.params.irqEntryCycles + (if s.sleeping then s.params.wakeupCycles else 0)

/-- Interrupt entry for vector n (60_exceptions.md R286, from `PushAddr` on). -/
def takeInterrupt (n : Fin 43) (s : State) : Res State := do
  let pushed ← pushAddr s.pc s
  let t := clearSourceFlag n pushed
  .ok { t with
    pending := t.pending &&& ~~~(1#43 <<< n.val)
    flags := { t.flags with i := false }
    insideInterrupt := true
    pc := BitVec.ofNat 16 (2 * n.val)
    cycles := t.cycles + entryCycles s
    sleeping := false }

/-- Return from interrupt (44_call_return_stack.md R201): pc from the stack, I set, the re-entrancy flag cleared. -/
def returnFromInterrupt (s : State) : Res State := do
  let (target, t) ← popAddr s
  .ok { t with pc := target, flags := { t.flags with i := true }, insideInterrupt := false }

/-! ## Free values -/

/-- The byte the SPI callback returns, FREE VALUE (20_memory.md R77), and the counter moved on. -/
def drawSpiReply (s : State) : Byte × State := (Config.spiReply s.draws, { s with draws := s.draws + 1 })

end Sys2Proof.Machine
end

