-- ==== Sys2Proof/Machine/Timers.lean ====
section
/-! DEFINITION. The three timers (spec/60_exceptions.md R310 to R326): catch-up to a cycle count, and the time to the next
event. -/

namespace Sys2Proof.Machine

/-- `T0_DIV`, also `T3_DIV` (R311, R317): six entries for a 3-bit select; none for 6 and 7. -/
def prescale (cs : Nat) : Option Nat := [0, 1, 8, 64, 256, 1024][cs]?

/-- The select bits `v[2:0]` of TCCR0B and TCCR3B (10_state.md R40, R42). -/
def clockSelect (v : Byte) : Nat := v.toNat % 8

/-! ## Timer0 (R311 to R315) -/

/-- `T0_DIV(cs)`; refused where the table has no entry (R311, U9). -/
def divisor0 (cs : Nat) : Res Nat :=
  match prescale cs with
  | some d => .ok d
  | none => refuse .timer0ClockSelect

/-- The baseline of timer0 set. -/
def State.setLastT0 (s : State) (n : Nat) : State := { s with last := { s.last with t0 := n } }

/-- TOV0 <- 1. -/
def setTov0 (s : State) : State := s.setByte aTIFR0 (setBit (s.byteAt aTIFR0) 0)

/-- The body of `CatchUp0(now)` with the divisor known (R312). -/
def advance0 (div now : Nat) (s : State) : State :=
  if div = 0 then s.setLastT0 now
  else
    let ticks := (now - s.last.t0) / div
    if ticks = 0 then s
    else
      let sum := (s.byteAt aTCNT0).toNat + ticks
      let t := s.setByte aTCNT0 (BitVec.ofNat 8 sum)
      let u := if 256 ≤ sum then setTov0 t else t
      u.setLastT0 (s.last.t0 + ticks * div)

/-- `CatchUp0(now)` at the rate of the select `cs` (R312, R314). -/
def catchUp0At (cs now : Nat) (s : State) : Res State := do
  let div ← divisor0 cs
  .ok (advance0 div now s)

/-- `CatchUp0(now)` (R312). -/
def catchUp0 (now : Nat) (s : State) : Res State := catchUp0At (clockSelect (s.byteAt aTCCR0B)) now s

/-! ## Timer3 (R317 to R319) -/

/-- TCNT3 (R317). -/
def State.tcnt3 (s : State) : Word := word16 (s.byteAt aTCNT3H) (s.byteAt aTCNT3L)

/-- OCR3A (R317). -/
def State.ocr3a (s : State) : Word := word16 (s.byteAt aOCR3AH) (s.byteAt aOCR3AL)

/-- The waveform-mode bits TCCR3A[1:0] and TCCR3B[4:3] are all 0 (R317). -/
def normalMode3 (s : State) : Bool :=
  decide ((s.byteAt aTCCR3A).toNat % 4 = 0) && decide ((s.byteAt aTCCR3B).toNat / 8 % 4 = 0)

/-- `T3_DIV`; refused in a waveform mode or where the table has no entry (R317, U10). -/
def divisor3 (s : State) : Res Nat :=
  if normalMode3 s then
    match prescale (clockSelect (s.byteAt aTCCR3B)) with
    | some d => .ok d
    | none => refuse .timer3Mode
  else refuse .timer3Mode

/-- Ticks until a counter at `old`, running modulo `m`, next equals `target` (R318, R322): 1 to m. -/
def firstMatch (m old target : Nat) : Nat := (target + (m - old % m) + m - 1) % m + 1

/-- The baseline of timer3 set. -/
def State.setLastT3 (s : State) (n : Nat) : State := { s with last := { s.last with t3 := n } }

/-- OCF3A <- 1. -/
def setOcf3a (s : State) : State := s.setByte aTIFR3 (setBit (s.byteAt aTIFR3) 1)

/-- TCNT3 <- w, both bytes. -/
def State.setTcnt3 (s : State) (w : Word) : State := (s.setByte aTCNT3L (lo8 w)).setByte aTCNT3H (hi8 w)

/-- The body of `CatchUp3(now)` with the divisor known (R318, R319). -/
def advance3 (div now : Nat) (s : State) : State :=
  if div = 0 then s.setLastT3 now
  else
    let ticks := (now - s.last.t3) / div
    if ticks = 0 then s
    else
      let old := s.tcnt3.toNat
      let hit := decide (firstMatch 65536 old s.ocr3a.toNat ≤ ticks)
      let t := if hit then setOcf3a s else s
      let u := t.setTcnt3 (BitVec.ofNat 16 (old + ticks))
      { u.setLastT3 (s.last.t3 + ticks * div) with t3Triggered := hit }

/-- `CatchUp3(now)` (R318). -/
def catchUp3 (now : Nat) (s : State) : Res State := do
  let div ← divisor3 s
  .ok (advance3 div now s)

/-! ## Timer4 (R321 to R323) -/

/-- TCNT4, 10 bits: TC4H[1:0] over the TCNT4 byte (R321). -/
def State.tcnt4 (s : State) : Nat := (s.byteAt aTC4H).toNat % 4 * 256 + (s.byteAt aTCNT4).toNat

/-- `T4_DIV(TCCR4B[3:0])` (R321). -/
def divisor4 (s : State) : Nat := s.params.t4Div[(s.byteAt aTCCR4B).toNat % 16]'(Nat.mod_lt _ (by decide))

/-- The bytes at data 0x20 to 0xFF, in order: what a function of the I/O registers sees. -/
def ioImage (s : State) : List Byte := (List.range 224).map (fun i => s.rawRead (ioStart + i))

/-- `T4_COMPARE(state)` (R8, R321): the parameters' table at the present I/O image, with the suggestion, OCR4A zero-extended,
where it has no entry; or the open function they name (log entry 8). -/
def t4Compare (s : State) : Nat :=
  match s.params.t4Compare with
  | .table entries => ((entries.lookup (ioImage s)).getD ((s.byteAt aOCR4A).setWidth 10)).toNat
  | .openFunction n => (Config.t4Compare n s).toNat

/-- The suggestion of R321 for `T4_TOGGLE`: DDRC AND 0xC0 when TCCR4A[7:6] is not 0, else 0. -/
def t4ToggleSuggested (ddrc tccr4a : Byte) : Byte := if tccr4a &&& 0xC0 = 0 then 0 else ddrc &&& 0xC0

/-- `T4_TOGGLE` (R321): the parameters' entry for DDRC and TCCR4A, else the suggestion; "only bits 6 and 7 may be set". -/
def t4Toggle (s : State) : Byte :=
  (s.params.t4Toggle.lookup (s.byteAt aDDRC, s.byteAt aTCCR4A)).getD (t4ToggleSuggested (s.byteAt aDDRC) (s.byteAt aTCCR4A))
    &&& 0xC0

/-- The baseline of timer4 set. -/
def State.setLastT4 (s : State) (n : Nat) : State := { s with last := { s.last with t4 := n } }

/-- TCNT4 <- n: the byte, and bits 1:0 of TC4H; the other bits of TC4H are kept (R322, log entry 15). -/
def State.setTcnt4 (s : State) (n : Nat) : State :=
  (s.setByte aTCNT4 (BitVec.ofNat 8 n)).setByte aTC4H
    ((s.byteAt aTC4H &&& 0xFC) ||| BitVec.ofNat 8 (n / 256 % 4))

/-- TOV4 <- 1. -/
def setTov4 (s : State) : State := s.setByte aTIFR4 (setBit (s.byteAt aTIFR4) 2)

/-- OCF4A <- 1. -/
def setOcf4a (s : State) : State := s.setByte aTIFR4 (setBit (s.byteAt aTIFR4) 6)

/-- PORTC's bits of `T4_TOGGLE` inverted in place, with no callback (R323). -/
def togglePortC (s : State) : State := s.setByte aPORTC (s.byteAt aPORTC ^^^ t4Toggle s)

/-- The compare part of `CatchUp4` (R322): target `cmp`, `m` counter values, `old` before, `ticks` later. -/
def match4 (cmp m old ticks : Nat) (s : State) : State :=
  if cmp < m then
    let first := firstMatch m old cmp
    if first ≤ ticks then
      let t := setOcf4a s
      if ((ticks - first) / m + 1) % 2 = 1 then togglePortC t else t
    else s
  else s

/-- `CatchUp4(now)` (R322). -/
def catchUp4 (now : Nat) (s : State) : State :=
  let div := divisor4 s
  if div = 0 then s.setLastT4 now
  else
    let ticks := (now - s.last.t4) / div
    if ticks = 0 then s
    else
      let m := s.params.t4Top + 1
      let old := s.tcnt4 % m
      let t := if m ≤ old + ticks then setTov4 s else s
      let u := match4 (t4Compare s) m old ticks t
      (u.setTcnt4 ((old + ticks) % m)).setLastT4 (s.last.t4 + ticks * div)

/-- `CatchUpAll(now)`: timer0, timer3, timer4 (R326). -/
def catchUpAll (now : Nat) (s : State) : Res State := do
  let t ← catchUp0 now s
  let u ← catchUp3 now t
  .ok (catchUp4 now u)

/-! ## The next timer event (R313, R320, R324, R325), after a catch-up -/

/-- A bit of a stored I/O byte. -/
def State.ioBit (s : State) (a i : Nat) : Bool := (s.byteAt a).getLsbD i

/-- Timer0's next overflow (R313): none when not enabled or stopped. -/
def nextEvent0 (s : State) : Res (Option Nat) := do
  let div ← divisor0 (clockSelect (s.byteAt aTCCR0B))
  .ok (if s.ioBit aTIMSK0 0 && decide (div ≠ 0) then
    some ((256 - (s.byteAt aTCNT0).toNat) * div - (s.cycles - s.last.t0)) else none)

/-- Timer3's next compare match (R320). -/
def nextEvent3 (s : State) : Res (Option Nat) := do
  let div ← divisor3 s
  .ok (if s.ioBit aTIMSK3 1 && decide (div ≠ 0) then
    some (firstMatch 65536 s.tcnt3.toNat s.ocr3a.toNat * div - (s.cycles - s.last.t3)) else none)

/-- Timer4's next compare match (R324). -/
def nextEvent4Compare (s : State) : Option Nat :=
  let div := divisor4 s
  if s.ioBit aTIMSK4 6 && decide (div ≠ 0) && decide (t4Compare s < s.params.t4Top + 1) then
    some (firstMatch (s.params.t4Top + 1) s.tcnt4 (t4Compare s) * div - (s.cycles - s.last.t4))
  else none

/-- Timer4's next overflow (R324), a counter above `T4_TOP` reduced as R322 reduces it. -/
def nextEvent4Overflow (s : State) : Option Nat :=
  let div := divisor4 s
  if s.ioBit aTIMSK4 2 && decide (div ≠ 0) then
    some ((s.params.t4Top + 1 - s.tcnt4 % (s.params.t4Top + 1)) * div - (s.cycles - s.last.t4))
  else none

/-- The smaller of two times, none standing for infinity. -/
def soonest : Option Nat → Option Nat → Option Nat
  | none, y => y
  | x, none => x
  | some x, some y => some (min x y)

/-- `cyclesToNextTimerEvent()` (R325); none is infinity. -/
def cyclesToNextTimerEvent (s : State) : Res (Option Nat) := do
  let e0 ← nextEvent0 s
  let e3 ← nextEvent3 s
  .ok (soonest (soonest e0 e3) (soonest (nextEvent4Compare s) (nextEvent4Overflow s)))

end Sys2Proof.Machine
end

