-- ==== Sys2Proof/Machine/Hooks.lean ====
section
/-! DEFINITION. The two access points of the data space, `MemRead` and `MemWrite`, with the refresh-before-read and the
react-after-write hooks (spec/20_memory.md R65 to R81, R85). -/

namespace Sys2Proof.Machine

/-- The EEPROM write-enable time set. -/
def State.setLastEewe (s : State) (n : Nat) : State := { s with last := { s.last with eewe := n } }

/-- The PLL enable time set. -/
def State.setLastPll (s : State) (n : Nat) : State := { s with last := { s.last with pll := n } }

/-- The ADC start time set. -/
def State.setLastAdc (s : State) (n : Nat) : State := { s with last := { s.last with adc := n } }

/-! ## Refresh before read -/

/-- EECR: EEMPE cleared once its window has expired (R73). -/
def refreshEecr (s : State) : State :=
  if s.ioBit aEECR 2 && decide (s.params.eepromWeCycles ≤ s.cycles - s.last.eewe) then
    s.setByte aEECR (clearBit (s.byteAt aEECR) 2)
  else s

/-- PLLCSR: PLOCK set once the PLL has been enabled long enough (R75). -/
def refreshPllcsr (s : State) : State :=
  if s.ioBit aPLLCSR 1 && !s.ioBit aPLLCSR 0 && decide (s.params.pllLockCycles ≤ s.cycles - s.last.pll) then
    s.setByte aPLLCSR (setBit (s.byteAt aPLLCSR) 0)
  else s

/-- ADCSRA: ADSC cleared once the conversion time has passed (R79). -/
def refreshAdcsra (s : State) : State :=
  if s.ioBit aADCSRA 6 && decide (s.params.adcConvCycles ≤ s.cycles - s.last.adc) then
    s.setByte aADCSRA (clearBit (s.byteAt aADCSRA) 6)
  else s

/-- `Refresh(addr, now)` (R66) with now the cycle count at the start of the instruction (R70). SREG needs none: the flags
are its only home (10_state.md R25). -/
def refresh (a : Nat) (s : State) : Res State :=
  if a = aEECR then .ok (refreshEecr s)
  else if a = aPLLCSR then .ok (refreshPllcsr s)
  else if a = aADCSRA then .ok (refreshAdcsra s)
  else if a = aTCNT0 then catchUp0 s.cycles s
  else .ok s

/-! ## React after write -/

/-- The EEPROM address EEARH:EEARL (R74). -/
def State.eear (s : State) : Nat := (word16 (s.byteAt aEEARH) (s.byteAt aEEARL)).toNat

/-- The EEPROM range check (20_memory.md R64). -/
def checkEeprom (ea : Nat) : Res Unit := if ea < Config.eepromBytes then .ok () else raise (.outOfRangeEeprom ea)

/-- EEPROM read (R74): EEDR <- eeprom[ea]. -/
def eepromRead (s : State) : Res State := do
  checkEeprom s.eear
  .ok (s.setByte aEEDR (s.eeprom.read s.eear))

/-- The byte an EEPROM write leaves, by `EEPM` (R74): erase and write, erase only, write only; 3 is reserved. -/
def eepromResult (mode : Nat) (old new : Byte) : Res Byte :=
  if mode = 0 then .ok new
  else if mode = 1 then .ok 0xFF
  else if mode = 2 then .ok (old &&& new)
  else refuse .eepromMode3

/-- EEPROM write (R74) in mode `v[5:4]`. -/
def eepromProgram (v : Byte) (s : State) : Res State := do
  checkEeprom s.eear
  let x ← eepromResult (v.toNat / 16 % 4) (s.eeprom.read s.eear) (s.byteAt aEEDR)
  .ok { s with eeprom := s.eeprom.write s.eear x }

/-- EECR react (R74): EERE and EEPE read back 0; then the timestamp, the read and the write, in this order. -/
def reactEecr (old v : Byte) (s : State) : Res State := do
  let stored := s.setByte aEECR (clearBit (clearBit v 0) 1)
  let stamped := if v.getLsbD 2 then stored.setLastEewe s.cycles else stored
  let afterRead ← if v.getLsbD 0 then eepromRead stamped else .ok stamped
  if v.getLsbD 1 && old.getLsbD 2 then eepromProgram v afterRead else .ok afterRead

/-- PLLCSR react (R76): PLOCK is not the program's to write; cleared on disable; the enable edge is timed. -/
def reactPllcsr (old v : Byte) (s : State) : State :=
  if v.getLsbD 1 then
    let t := s.setByte aPLLCSR (if old.getLsbD 0 then setBit v 0 else clearBit v 0)
    if old.getLsbD 1 then t else t.setLastPll s.cycles
  else s.setByte aPLLCSR (clearBit v 0)

/-- SPDR react (R77): the callback's byte where one is attached, else 0x00. -/
def reactSpdr (v : Byte) (s : State) : State :=
  if s.params.spiAttached then
    let (reply, t) := drawSpiReply (s.callHost (.spiShift v))
    t.setByte aSPDR reply
  else s.setByte aSPDR 0

/-- TCCR0B react (60_exceptions.md R314): catch up at the old rate, restart the prescaler if the select changed. -/
def reactTccr0b (old v : Byte) (s : State) : Res State := do
  let t ← catchUp0At (clockSelect old) s.cycles s
  .ok (if clockSelect v = clockSelect old then t else t.setLastT0 s.cycles)

/-- TCNT0 react (60_exceptions.md R315): a write that decreases the caught-up count sets TOV0. -/
def reactTcnt0 (old v : Byte) (s : State) : State := if v.toNat < old.toNat then setTov0 s else s

/-- ADCSRA react (R80): a start is timed. -/
def reactAdcsra (old v : Byte) (s : State) : State :=
  if v.getLsbD 6 && !old.getLsbD 6 then s.setLastAdc s.cycles else s

/-- The reactions that only call the host: at PORTx the pin-change callback, whether or not the value changed (R81); at SPL
and SPH the call-stack notification (10_state.md R27, R38). -/
def reactHost (a : Nat) (old v : Byte) (s : State) : State :=
  match portAt a with
  | some p => s.callHost (.pinChange p old v)
  | none => if a = aSPL ∨ a = aSPH then s.notify .stackPointerWrite else s

/-- `React(addr, old, v, now)` (R67). -/
def react (a : Nat) (old v : Byte) (s : State) : Res State :=
  if a = aEECR then reactEecr old v s
  else if a = aPLLCSR then .ok (reactPllcsr old v s)
  else if a = aSPDR then .ok (reactSpdr v s)
  else if a = aTCCR0B then reactTccr0b old v s
  else if a = aTCNT0 then .ok (reactTcnt0 old v s)
  else if a = aADCSRA then .ok (reactAdcsra old v s)
  else .ok (reactHost a old v s)

/-! ## The access points -/

/-- The range check of R65. -/
def checkData (a : Nat) : Res Unit := if a < Config.dataSize then .ok () else raise (.outOfRangeData a)

/-- `MemRead(addr, 1)` (R66). -/
def memRead (a : Nat) (s : State) : Res (Byte × State) := do
  checkData a
  let t ← refresh a s
  .ok (t.rawRead a, t)

/-- `MemWrite(addr, 1, v)` (R67): `old` is the refreshed value (R85). -/
def memWrite (a : Nat) (v : Byte) (s : State) : Res State := do
  checkData a
  let t ← refresh a s
  react a (t.rawRead a) v (t.rawWrite a v)

end Sys2Proof.Machine
end

