-- ==== Sys2Proof/Machine/Interrupts.lean ====
section
/-! DEFINITION. Recognition, priority and dispatch of interrupts, and the tail of a step (spec/60_exceptions.md R280 to R289,
70_reset_and_hazards.md R345). -/

namespace Sys2Proof.Machine

/-- One source of `Recognise()` (R284): its pending bit is set when its flag and its enable are both 1. -/
def recogniseSource (s : State) (src : IrqSource) : State :=
  if s.ioBit src.flagReg src.flagBit && s.ioBit src.maskReg src.maskBit then
    { s with pending := s.pending ||| (1#43 <<< src.vector.val) }
  else s

/-- `Recognise()` (R284): each of the four sources; it does not depend on `F.I`. -/
def recognise (s : State) : State := irqSources.foldl recogniseSource s

/-- "the lowest-numbered pending source" (R286, R287). -/
def lowestPending (p : BitVec 43) : Option (Fin 43) := (List.finRange 43).find? (fun n => p.getLsbD n.val)

/-- `Dispatch()` (R286): nothing while `F.I` is 0 or nothing is pending; else the lowest pending vector is entered. -/
def dispatch (s : State) : Res State :=
  if s.flags.i then
    match lowestPending s.pending with
    | none => .ok s
    | some n => takeInterrupt n s
  else .ok s

/-- The tail of a step (R345): `CatchUpAll(cycles) ; Recognise() ; Dispatch()`. -/
def afterBody (s : State) : Res State := do
  let t ← catchUpAll s.cycles s
  dispatch (recognise t)

end Sys2Proof.Machine
end

