-- ==== Sys2Proof/Machine/Operands.lean ====
section
/-! DEFINITION. The operand forms (spec/45_data_transfer.md R238, R239; 20_memory.md R94; 43_branch_skip.md R185): pointers,
displacements, absolute and I/O addresses, relative targets, skips. -/

namespace Sys2Proof.Machine

/-- The pointer registers (R239). -/
inductive Ptr where
  | x | y | z
  deriving DecidableEq, Repr

/-- The low register of the pointer pair (10_state.md R21). -/
def Ptr.low : Ptr → Reg
  | .x => 26
  | .y => 28
  | .z => 30

/-- The value of a pointer. -/
def State.ptr (s : State) (p : Ptr) : Word := s.pair p.low

/-- How a form changes its pointer (R239). -/
inductive PtrMode where
  /-- `P` -/
  | plain
  /-- `P+` -/
  | postInc
  /-- `-P` -/
  | preDec
  deriving DecidableEq, Repr

/-- The effective address from the pointer's value, modulo 2^16 (R239). -/
def PtrMode.address (m : PtrMode) (p : Word) : Word :=
  match m with
  | .plain => p
  | .postInc => p
  | .preDec => p - 1

/-- The pointer afterwards, modulo 2^16 (R239). -/
def PtrMode.after (m : PtrMode) (p : Word) : Word :=
  match m with
  | .plain => p
  | .postInc => p + 1
  | .preDec => p - 1

/-- The pointer write-back of a form, computed from the value `p` read at the start (R239). -/
def writeBack (ptr : Ptr) (m : PtrMode) (p : Word) (s : State) : State :=
  match m with
  | .plain => s
  | .postInc => s.setPair ptr.low (PtrMode.after .postInc p)
  | .preDec => s.setPair ptr.low (PtrMode.after .preDec p)

/-- The data register is one of the two registers of a pointer the form modifies (R238). -/
def overlaps (ptr : Ptr) (m : PtrMode) (r : Reg) : Bool :=
  match m with
  | .plain => false
  | .postInc => decide (r = ptr.low) || decide (r = ptr.low + 1)
  | .preDec => decide (r = ptr.low) || decide (r = ptr.low + 1)

/-- The refusal of R238. -/
def checkOverlap (ptr : Ptr) (m : PtrMode) (r : Reg) : Res Unit :=
  if overlaps ptr m r then refuse .pointerOverlap else .ok ()

/-- A load from `ea` into `d`, of an instruction `words` long; Rd is written last (R239). -/
def loadFrom (ea : Word) (d : Reg) (words : Nat) (c : CycCase) (s : State) : Res State := do
  let (v, t) ← memRead ea.toNat s
  .ok ((t.setReg d v).advance words (s.cyc c))

/-- A store of `v` to `ea`, of an instruction `words` long. -/
def storeTo (ea : Word) (v : Byte) (words : Nat) (c : CycCase) (s : State) : Res State := do
  let t ← memWrite ea.toNat v s
  .ok (t.advance words (s.cyc c))

/-- LD through a pointer (R214 to R221): access, pointer write-back, then Rd. -/
def loadPtr (ptr : Ptr) (m : PtrMode) (d : Reg) (s : State) : Res State := do
  checkOverlap ptr m d
  let (v, t) ← memRead (m.address (s.ptr ptr)).toNat s
  .ok (((writeBack ptr m (s.ptr ptr) t).setReg d v).advance 1 (s.cyc .ld))

/-- ST through a pointer (R224 to R231): access, then pointer write-back. -/
def storePtr (ptr : Ptr) (m : PtrMode) (r : Reg) (s : State) : Res State := do
  checkOverlap ptr m r
  let t ← memWrite (m.address (s.ptr ptr)).toNat (s.reg r) s
  .ok ((writeBack ptr m (s.ptr ptr) t).advance 1 (s.cyc .st))

/-- The effective address of a displacement form, `(P + q) mod 2^16` (R239). -/
def dispAddress (ptr : Ptr) (q : BitVec 6) (s : State) : Word := s.ptr ptr + q.setWidth 16

/-- LPM through Z into `d` (R233 to R235): byte, pointer write-back, then Rd. -/
def loadFlash (m : PtrMode) (d : Reg) (s : State) : Res State := do
  checkOverlap .z m d
  let v ← s.flashByte (s.ptr .z).toNat
  .ok (((writeBack .z m (s.ptr .z) s).setReg d v).advance 1 (s.cyc .lpm))

/-- The data address of a 6-bit I/O address (20_memory.md R94). -/
def ioAddress6 (a : BitVec 6) : Nat := a.toNat + ioStart

/-- The data address of a 5-bit I/O address (20_memory.md R94). -/
def ioAddress5 (a : BitVec 5) : Nat := a.toNat + ioStart

/-- `(pc + 1 + k) mod 2^16`, k signed (43_branch_skip.md R180, R183). -/
def relTarget {w : Nat} (k : BitVec w) (s : State) : Word := s.pc + 1 + k.signExtend 16

/-- The common skip rule (43_branch_skip.md R185): the next word is fetched only when the skip is taken; `c` gives the case
of `CYC` by the words skipped. -/
def skipIf (c : Nat → CycCase) (cond : Bool) (s : State) : Res State :=
  if cond then do
    let n ← s.flashWord (s.pc.toNat + 1)
    .ok (if is2Word n then s.advance 3 (s.cyc (c 2)) else s.advance 2 (s.cyc (c 1)))
  else .ok (s.advance 1 (s.cyc (c 0)))

/-- A conditional branch (43_branch_skip.md R183, R184); `c` gives the case of `CYC`. -/
def branchIf (c : Bool → CycCase) (cond : Bool) (k : BitVec 7) (s : State) : State :=
  if cond then s.jump (relTarget k s) (s.cyc (c true)) else s.advance 1 (s.cyc (c false))

/-- The range check of JMP and CALL (43_branch_skip.md R182): a target the 16-bit pc cannot hold. -/
def checkTarget (k : BitVec 22) : Res Word :=
  if k.toNat < 65536 then .ok (BitVec.ofNat 16 k.toNat) else raise (.outOfRangeFlash k.toNat)

end Sys2Proof.Machine
end

