-- ==== Sys2Proof/Machine/Arithmetic.lean ====
section
/-! DEFINITION. The meanings of the arithmetic and compare instructions (spec/40_arithmetic.md R133 to R146). -/

namespace Sys2Proof.Machine

/-- An 8-bit result to Rd with its flags; one word. -/
def writeAlu (c : CycCase) (d : Reg) (x : Alu 8) (s : State) : State :=
  ((s.setReg d x.result).setFlags x.flags).advance 1 (s.cyc c)

/-- The flags of a compare, the result discarded; one word. -/
def writeCompare (c : CycCase) (x : Alu 8) (s : State) : State := (s.setFlags x.flags).advance 1 (s.cyc c)

/-- A 16-bit result to a pair with its flags; one word. -/
def writeAluPair (c : CycCase) (d : Reg) (x : Alu 16) (s : State) : State :=
  ((s.setPair d x.result).setFlags x.flags).advance 1 (s.cyc c)

/-- ADD Rd, Rr (R133). -/
def execAdd (d r : Reg) (s : State) : Host.Outcome State Fault Refusal :=
  .next (writeAlu .add d (addFlags8 (s.reg d) (s.reg r) false s.flags) s)

/-- ADC Rd, Rr (R134). -/
def execAdc (d r : Reg) (s : State) : Host.Outcome State Fault Refusal :=
  .next (writeAlu .adc d (addFlags8 (s.reg d) (s.reg r) s.flags.c s.flags) s)

/-- SUB Rd, Rr (R135). -/
def execSub (d r : Reg) (s : State) : Host.Outcome State Fault Refusal :=
  .next (writeAlu .sub d (subFlags8 (s.reg d) (s.reg r) false false s.flags) s)

/-- SUBI Rd, K (R136). -/
def execSubi (d : Reg) (k8 : Byte) (s : State) : Host.Outcome State Fault Refusal :=
  .next (writeAlu .subi d (subFlags8 (s.reg d) k8 false false s.flags) s)

/-- SBC Rd, Rr (R137). -/
def execSbc (d r : Reg) (s : State) : Host.Outcome State Fault Refusal :=
  .next (writeAlu .sbc d (subFlags8 (s.reg d) (s.reg r) s.flags.c true s.flags) s)

/-- SBCI Rd, K (R138). -/
def execSbci (d : Reg) (k8 : Byte) (s : State) : Host.Outcome State Fault Refusal :=
  .next (writeAlu .sbci d (subFlags8 (s.reg d) k8 s.flags.c true s.flags) s)

/-- CP Rd, Rr (R139). -/
def execCp (d r : Reg) (s : State) : Host.Outcome State Fault Refusal :=
  .next (writeCompare .cp (subFlags8 (s.reg d) (s.reg r) false false s.flags) s)

/-- CPC Rd, Rr (R140). -/
def execCpc (d r : Reg) (s : State) : Host.Outcome State Fault Refusal :=
  .next (writeCompare .cpc (subFlags8 (s.reg d) (s.reg r) s.flags.c true s.flags) s)

/-- CPI Rd, K (R141). -/
def execCpi (d : Reg) (k8 : Byte) (s : State) : Host.Outcome State Fault Refusal :=
  .next (writeCompare .cpi (subFlags8 (s.reg d) k8 false false s.flags) s)

/-- NEG Rd (R142): 0 − Rd. -/
def execNeg (d : Reg) (s : State) : Host.Outcome State Fault Refusal :=
  .next (writeAlu .neg d (subFlags8 0 (s.reg d) false false s.flags) s)

/-- INC Rd (R143). -/
def execInc (d : Reg) (s : State) : Host.Outcome State Fault Refusal :=
  .next (writeAlu .inc d (incFlags8 (s.reg d) s.flags) s)

/-- DEC Rd (R144). -/
def execDec (d : Reg) (s : State) : Host.Outcome State Fault Refusal :=
  .next (writeAlu .dec d (decFlags8 (s.reg d) s.flags) s)

/-- ADIW Rd+1:Rd, K (R145). -/
def execAdiw (d : Reg) (k6 : BitVec 6) (s : State) : Host.Outcome State Fault Refusal :=
  .next (writeAluPair .adiw d (addWord16 (s.pair d) k6 s.flags) s)

/-- SBIW Rd+1:Rd, K (R146). -/
def execSbiw (d : Reg) (k6 : BitVec 6) (s : State) : Host.Outcome State Fault Refusal :=
  .next (writeAluPair .sbiw d (subWord16 (s.pair d) k6 s.flags) s)

end Sys2Proof.Machine
end

