-- ==== Sys2Proof/Machine/Branch.lean ====
section
/-! DEFINITION. The meanings of the jumps, conditional branches and skips (spec/43_branch_skip.md R180 to R190). -/

namespace Sys2Proof.Machine

/-- RJMP k (R180). -/
def execRjmp (k : BitVec 12) (s : State) : Host.Outcome State Fault Refusal := .next (s.jump (relTarget k s) (s.cyc .rjmp))

/-- IJMP (R181). -/
def execIjmp (s : State) : Host.Outcome State Fault Refusal := .next (s.jump (s.ptr .z) (s.cyc .ijmp))

/-- JMP k (R182). -/
def execJmp (k : BitVec 22) (s : State) : Host.Outcome State Fault Refusal :=
  outcome (do
    let target ← checkTarget k
    .ok (s.jump target (s.cyc .jmp)))

/-- BRBS s, k (R183). -/
def execBrbs (f : BitNo) (k : BitVec 7) (s : State) : Host.Outcome State Fault Refusal :=
  .next (branchIf .brbs (s.flags.get f) k s)

/-- BRBC s, k (R184). -/
def execBrbc (f : BitNo) (k : BitVec 7) (s : State) : Host.Outcome State Fault Refusal :=
  .next (branchIf .brbc (!s.flags.get f) k s)

/-- CPSE Rd, Rr (R186). -/
def execCpse (d r : Reg) (s : State) : Host.Outcome State Fault Refusal :=
  outcome (skipIf .cpse (decide (s.reg d = s.reg r)) s)

/-- SBRC Rr, b (R187). -/
def execSbrc (r : Reg) (b : BitNo) (s : State) : Host.Outcome State Fault Refusal :=
  outcome (skipIf .sbrc (!(s.reg r).getLsbD b.val) s)

/-- SBRS Rr, b (R188). -/
def execSbrs (r : Reg) (b : BitNo) (s : State) : Host.Outcome State Fault Refusal :=
  outcome (skipIf .sbrs ((s.reg r).getLsbD b.val) s)

/-- SBIC A, b (R189): the read runs the refresh hook. -/
def execSbic (a : BitVec 5) (b : BitNo) (s : State) : Host.Outcome State Fault Refusal :=
  outcome (do
    let (v, t) ← memRead (ioAddress5 a) s
    skipIf .sbic (!v.getLsbD b.val) t)

/-- SBIS A, b (R190): the read runs the refresh hook. -/
def execSbis (a : BitVec 5) (b : BitNo) (s : State) : Host.Outcome State Fault Refusal :=
  outcome (do
    let (v, t) ← memRead (ioAddress5 a) s
    skipIf .sbis (v.getLsbD b.val) t)

end Sys2Proof.Machine
end

