-- ==== Sys2Proof/Machine/CallStack.lean ====
section
/-! DEFINITION. The meanings of the calls, the returns, PUSH and POP (spec/44_call_return_stack.md R197 to R203). -/

namespace Sys2Proof.Machine

/-- RCALL k (R197). -/
def execRcall (k : BitVec 12) (s : State) : Host.Outcome State Fault Refusal :=
  outcome (do
    let t ← pushAddr (s.pc + 1) s
    .ok (t.jump (relTarget k s) (s.cyc .rcall)))

/-- ICALL (R198). -/
def execIcall (s : State) : Host.Outcome State Fault Refusal :=
  outcome (do
    let t ← pushAddr (s.pc + 1) s
    .ok (t.jump (s.ptr .z) (s.cyc .icall)))

/-- CALL k (R199): the target is checked before the push. -/
def execCall (k : BitVec 22) (s : State) : Host.Outcome State Fault Refusal :=
  outcome (do
    let target ← checkTarget k
    let t ← pushAddr (s.pc + 2) s
    .ok (t.jump target (s.cyc .call)))

/-- RET (R200). -/
def execRet (s : State) : Host.Outcome State Fault Refusal :=
  outcome (do
    let (target, t) ← popAddr s
    .ok (t.jump target (s.cyc .ret)))

/-- RETI (R201). -/
def execReti (s : State) : Host.Outcome State Fault Refusal :=
  outcome (do
    let t ← returnFromInterrupt s
    .ok (t.jump t.pc (s.cyc .reti)))

/-- PUSH Rr (R202). -/
def execPush (r : Reg) (s : State) : Host.Outcome State Fault Refusal :=
  outcome (do
    let t ← pushByte (s.reg r) s
    .ok (t.advance 1 (s.cyc .push)))

/-- POP Rd (R203). -/
def execPop (d : Reg) (s : State) : Host.Outcome State Fault Refusal :=
  outcome (do
    let (v, t) ← popByte s
    .ok ((t.setReg d v).advance 1 (s.cyc .pop)))

end Sys2Proof.Machine
end

