-- ==== Sys2Proof/Machine/Logic.lean ====
section
/-! DEFINITION. The meanings of the logic, shift and bit instructions (spec/41_logic_and_bit.md R151 to R167). -/

namespace Sys2Proof.Machine

/-- AND Rd, Rr (R151). -/
def execAnd (d r : Reg) (s : State) : Host.Outcome State Fault Refusal :=
  .next (writeAlu .and d (logicFlags (s.reg d &&& s.reg r) s.flags) s)

/-- ANDI Rd, K (R152). -/
def execAndi (d : Reg) (k8 : Byte) (s : State) : Host.Outcome State Fault Refusal :=
  .next (writeAlu .andi d (logicFlags (s.reg d &&& k8) s.flags) s)

/-- OR Rd, Rr (R153). -/
def execOr (d r : Reg) (s : State) : Host.Outcome State Fault Refusal :=
  .next (writeAlu .or d (logicFlags (s.reg d ||| s.reg r) s.flags) s)

/-- ORI Rd, K (R154). -/
def execOri (d : Reg) (k8 : Byte) (s : State) : Host.Outcome State Fault Refusal :=
  .next (writeAlu .ori d (logicFlags (s.reg d ||| k8) s.flags) s)

/-- EOR Rd, Rr (R155). -/
def execEor (d r : Reg) (s : State) : Host.Outcome State Fault Refusal :=
  .next (writeAlu .eor d (logicFlags (s.reg d ^^^ s.reg r) s.flags) s)

/-- COM Rd (R156). -/
def execCom (d : Reg) (s : State) : Host.Outcome State Fault Refusal :=
  .next (writeAlu .com d (comFlags (s.reg d) s.flags) s)

/-- LSR Rd (R158): bit 7 becomes 0. -/
def execLsr (d : Reg) (s : State) : Host.Outcome State Fault Refusal :=
  .next (writeAlu .lsr d (shiftFlags (s.reg d >>> 1) ((s.reg d).getLsbD 0) s.flags) s)

/-- ROR Rd (R159): bit 7 becomes the old C. -/
def execRor (d : Reg) (s : State) : Host.Outcome State Fault Refusal :=
  .next (writeAlu .ror d (shiftFlags (BitVec.ofBool s.flags.c ++ (s.reg d).extractLsb' 1 7) ((s.reg d).getLsbD 0) s.flags) s)

/-- ASR Rd (R160): bit 7 is kept. -/
def execAsr (d : Reg) (s : State) : Host.Outcome State Fault Refusal :=
  .next (writeAlu .asr d (shiftFlags ((s.reg d).extractLsb' 7 1 ++ (s.reg d).extractLsb' 1 7) ((s.reg d).getLsbD 0) s.flags) s)

/-- SWAP Rd (R161): no flag. -/
def execSwap (d : Reg) (s : State) : Host.Outcome State Fault Refusal :=
  .next ((s.setReg d ((s.reg d).extractLsb' 0 4 ++ (s.reg d).extractLsb' 4 4)).advance 1 (s.cyc .swap))

/-- BSET s (R162). -/
def execBset (f : BitNo) (s : State) : Host.Outcome State Fault Refusal :=
  .next ((s.setFlags (s.flags.put f true)).advance 1 (s.cyc .bset))

/-- BCLR s (R163). -/
def execBclr (f : BitNo) (s : State) : Host.Outcome State Fault Refusal :=
  .next ((s.setFlags (s.flags.put f false)).advance 1 (s.cyc .bclr))

/-- BST Rd, b (R164). -/
def execBst (d : Reg) (b : BitNo) (s : State) : Host.Outcome State Fault Refusal :=
  .next ((s.setFlags { s.flags with t := (s.reg d).getLsbD b.val }).advance 1 (s.cyc .bst))

/-- BLD Rd, b (R165). -/
def execBld (d : Reg) (b : BitNo) (s : State) : Host.Outcome State Fault Refusal :=
  .next ((s.setReg d (if s.flags.t then setBit (s.reg d) b.val else clearBit (s.reg d) b.val)).advance 1 (s.cyc .bld))

/-- A read, a change and a write of one I/O byte through the access points (R166, R167). -/
def modifyIo (c : CycCase) (a : Nat) (change : Byte → Byte) (s : State) : Res State := do
  let (v, t) ← memRead a s
  let u ← memWrite a (change v) t
  .ok (u.advance 1 (s.cyc c))

/-- SBI A, b (R166). -/
def execSbi (a : BitVec 5) (b : BitNo) (s : State) : Host.Outcome State Fault Refusal :=
  outcome (modifyIo .sbi (ioAddress5 a) (fun v => setBit v b.val) s)

/-- CBI A, b (R167). -/
def execCbi (a : BitVec 5) (b : BitNo) (s : State) : Host.Outcome State Fault Refusal :=
  outcome (modifyIo .cbi (ioAddress5 a) (fun v => clearBit v b.val) s)

end Sys2Proof.Machine
end

