-- ==== Sys2Proof/Machine/Multiply.lean ====
section
/-! DEFINITION. The meanings of the multiply instructions (spec/42_multiply.md R170 to R176). -/

namespace Sys2Proof.Machine

/-- The product pattern, unsigned by unsigned (R170). -/
def productUU (a b : Byte) : Word := BitVec.ofNat 16 (a.toNat * b.toNat)

/-- The product pattern, signed by signed (R170). -/
def productSS (a b : Byte) : Word := BitVec.ofInt 16 (a.toInt * b.toInt)

/-- The product pattern, signed by unsigned (R170). -/
def productSU (a b : Byte) : Word := BitVec.ofInt 16 (a.toInt * b.toNat)

/-- The product to R1:R0, both operands having been read (R170). -/
def writeProduct (c : CycCase) (x : Alu 16) (s : State) : State := writeAluPair c 0 x s

/-- MUL Rd, Rr (R171). -/
def execMul (d r : Reg) (s : State) : Host.Outcome State Fault Refusal :=
  .next (writeProduct .mul (mulFlags (productUU (s.reg d) (s.reg r)) s.flags) s)

/-- MULS Rd, Rr (R172). -/
def execMuls (d r : Reg) (s : State) : Host.Outcome State Fault Refusal :=
  .next (writeProduct .muls (mulFlags (productSS (s.reg d) (s.reg r)) s.flags) s)

/-- MULSU Rd, Rr (R173). -/
def execMulsu (d r : Reg) (s : State) : Host.Outcome State Fault Refusal :=
  .next (writeProduct .mulsu (mulFlags (productSU (s.reg d) (s.reg r)) s.flags) s)

/-- FMUL Rd, Rr (R174). -/
def execFmul (d r : Reg) (s : State) : Host.Outcome State Fault Refusal :=
  .next (writeProduct .fmul (fmulFlags (productUU (s.reg d) (s.reg r)) s.flags) s)

/-- FMULS Rd, Rr (R175). -/
def execFmuls (d r : Reg) (s : State) : Host.Outcome State Fault Refusal :=
  .next (writeProduct .fmuls (fmulFlags (productSS (s.reg d) (s.reg r)) s.flags) s)

/-- FMULSU Rd, Rr (R176). -/
def execFmulsu (d r : Reg) (s : State) : Host.Outcome State Fault Refusal :=
  .next (writeProduct .fmulsu (fmulFlags (productSU (s.reg d) (s.reg r)) s.flags) s)

end Sys2Proof.Machine
end

