-- ==== Sys2Proof/Machine/System.lean ====
section
/-! DEFINITION. The meanings of the system instructions (spec/46_system.md R260 to R263). -/

namespace Sys2Proof.Machine

/-- NOP (R260). -/
def execNop (s : State) : Host.Outcome State Fault Refusal := .next (s.advance 1 (s.cyc .nop))

/-- The sleep decision of R261 on the SMCR byte. -/
def enterSleep (m : Byte) (s : State) : Res State :=
  if m.getLsbD 0 then
    if m.extractLsb' 1 3 = 0 then .ok { s with sleeping := true } else refuse .sleepModeNotIdle
  else .ok s

/-- SLEEP (R261). -/
def execSleep (s : State) : Host.Outcome State Fault Refusal :=
  outcome (do
    let (m, t) ← memRead aSMCR s
    let u ← enterSleep m t
    .ok (u.advance 1 (s.cyc .sleep)))

/-- WDR (R262): a NOP. -/
def execWdr (s : State) : Host.Outcome State Fault Refusal := .next (s.advance 1 (s.cyc .wdr))

/-- BREAK (R263): a NOP. -/
def execBreak (s : State) : Host.Outcome State Fault Refusal := .next (s.advance 1 (s.cyc .brk))

end Sys2Proof.Machine
end

