-- ==== Sys2Proof/Machine/Transfer.lean ====
section
/-! DEFINITION. The meanings of the data transfer instructions (spec/45_data_transfer.md R210 to R237). -/

namespace Sys2Proof.Machine

/-- MOV Rd, Rr (R210). -/
def execMov (d r : Reg) (s : State) : Host.Outcome State Fault Refusal := .next ((s.setReg d (s.reg r)).advance 1 (s.cyc .mov))

/-- MOVW Rd+1:Rd, Rr+1:Rr (R211): both source bytes are read first. -/
def execMovw (d r : Reg) (s : State) : Host.Outcome State Fault Refusal :=
  .next ((s.setPair d (s.pair r)).advance 1 (s.cyc .movw))

/-- LDI Rd, K (R212). -/
def execLdi (d : Reg) (k8 : Byte) (s : State) : Host.Outcome State Fault Refusal :=
  .next ((s.setReg d k8).advance 1 (s.cyc .ldi))

/-- LDS Rd, k (R213). -/
def execLds (d : Reg) (a : Word) (s : State) : Host.Outcome State Fault Refusal := outcome (loadFrom a d 2 .lds s)

/-- LD Rd, X (R214). -/
def execLdX (d : Reg) (s : State) : Host.Outcome State Fault Refusal := outcome (loadPtr .x .plain d s)

/-- LD Rd, X+ (R215). -/
def execLdXInc (d : Reg) (s : State) : Host.Outcome State Fault Refusal := outcome (loadPtr .x .postInc d s)

/-- LD Rd, -X (R216). -/
def execLdXDec (d : Reg) (s : State) : Host.Outcome State Fault Refusal := outcome (loadPtr .x .preDec d s)

/-- LD Rd, Y+ (R217). -/
def execLdYInc (d : Reg) (s : State) : Host.Outcome State Fault Refusal := outcome (loadPtr .y .postInc d s)

/-- LD Rd, -Y (R218). -/
def execLdYDec (d : Reg) (s : State) : Host.Outcome State Fault Refusal := outcome (loadPtr .y .preDec d s)

/-- LDD Rd, Y+q (R219). -/
def execLddY (d : Reg) (q : BitVec 6) (s : State) : Host.Outcome State Fault Refusal :=
  outcome (loadFrom (dispAddress .y q s) d 1 .ldd s)

/-- LD Rd, Z+ (R220). -/
def execLdZInc (d : Reg) (s : State) : Host.Outcome State Fault Refusal := outcome (loadPtr .z .postInc d s)

/-- LD Rd, -Z (R221). -/
def execLdZDec (d : Reg) (s : State) : Host.Outcome State Fault Refusal := outcome (loadPtr .z .preDec d s)

/-- LDD Rd, Z+q (R222). -/
def execLddZ (d : Reg) (q : BitVec 6) (s : State) : Host.Outcome State Fault Refusal :=
  outcome (loadFrom (dispAddress .z q s) d 1 .ldd s)

/-- STS k, Rr (R223). -/
def execSts (a : Word) (r : Reg) (s : State) : Host.Outcome State Fault Refusal := outcome (storeTo a (s.reg r) 2 .sts s)

/-- ST X, Rr (R224). -/
def execStX (r : Reg) (s : State) : Host.Outcome State Fault Refusal := outcome (storePtr .x .plain r s)

/-- ST X+, Rr (R225). -/
def execStXInc (r : Reg) (s : State) : Host.Outcome State Fault Refusal := outcome (storePtr .x .postInc r s)

/-- ST -X, Rr (R226). -/
def execStXDec (r : Reg) (s : State) : Host.Outcome State Fault Refusal := outcome (storePtr .x .preDec r s)

/-- ST Y+, Rr (R227). -/
def execStYInc (r : Reg) (s : State) : Host.Outcome State Fault Refusal := outcome (storePtr .y .postInc r s)

/-- ST -Y, Rr (R228). -/
def execStYDec (r : Reg) (s : State) : Host.Outcome State Fault Refusal := outcome (storePtr .y .preDec r s)

/-- STD Y+q, Rr (R229). -/
def execStdY (q : BitVec 6) (r : Reg) (s : State) : Host.Outcome State Fault Refusal :=
  outcome (storeTo (dispAddress .y q s) (s.reg r) 1 .std s)

/-- ST Z+, Rr (R230). -/
def execStZInc (r : Reg) (s : State) : Host.Outcome State Fault Refusal := outcome (storePtr .z .postInc r s)

/-- ST -Z, Rr (R231). -/
def execStZDec (r : Reg) (s : State) : Host.Outcome State Fault Refusal := outcome (storePtr .z .preDec r s)

/-- STD Z+q, Rr (R232). -/
def execStdZ (q : BitVec 6) (r : Reg) (s : State) : Host.Outcome State Fault Refusal :=
  outcome (storeTo (dispAddress .z q s) (s.reg r) 1 .std s)

/-- LPM (R233): into R0. -/
def execLpm (s : State) : Host.Outcome State Fault Refusal := outcome (loadFlash .plain 0 s)

/-- LPM Rd, Z (R234). -/
def execLpmZ (d : Reg) (s : State) : Host.Outcome State Fault Refusal := outcome (loadFlash .plain d s)

/-- LPM Rd, Z+ (R235). -/
def execLpmZInc (d : Reg) (s : State) : Host.Outcome State Fault Refusal := outcome (loadFlash .postInc d s)

/-- IN Rd, A (R236). -/
def execIn (d : Reg) (a : BitVec 6) (s : State) : Host.Outcome State Fault Refusal :=
  outcome (do
    let (v, t) ← memRead (ioAddress6 a) s
    .ok ((t.setReg d v).advance 1 (s.cyc .ioIn)))

/-- OUT A, Rr (R237). -/
def execOut (a : BitVec 6) (r : Reg) (s : State) : Host.Outcome State Fault Refusal :=
  outcome (do
    let t ← memWrite (ioAddress6 a) (s.reg r) s
    .ok (t.advance 1 (s.cyc .ioOut)))

end Sys2Proof.Machine
end

