-- ==== Sys2Proof/Machine/Dispatch.lean ====
section
/-! DEFINITION. One arm per instruction, each one direct call of its meaning (spec/30_encoding.md R106). -/

namespace Sys2Proof.Machine

def exec (i : Instr) (s : State) : Host.Outcome State Fault Refusal :=
  match i with
  | .nop => Sys2Proof.Machine.execNop s
  | .movw d r => Sys2Proof.Machine.execMovw d r s
  | .muls d r => Sys2Proof.Machine.execMuls d r s
  | .mulsu d r => Sys2Proof.Machine.execMulsu d r s
  | .fmul d r => Sys2Proof.Machine.execFmul d r s
  | .fmuls d r => Sys2Proof.Machine.execFmuls d r s
  | .fmulsu d r => Sys2Proof.Machine.execFmulsu d r s
  | .cpc d r => Sys2Proof.Machine.execCpc d r s
  | .sbc d r => Sys2Proof.Machine.execSbc d r s
  | .add d r => Sys2Proof.Machine.execAdd d r s
  | .cpse d r => Sys2Proof.Machine.execCpse d r s
  | .cp d r => Sys2Proof.Machine.execCp d r s
  | .sub d r => Sys2Proof.Machine.execSub d r s
  | .adc d r => Sys2Proof.Machine.execAdc d r s
  | .and d r => Sys2Proof.Machine.execAnd d r s
  | .eor d r => Sys2Proof.Machine.execEor d r s
  | .or d r => Sys2Proof.Machine.execOr d r s
  | .mov d r => Sys2Proof.Machine.execMov d r s
  | .cpi d k8 => Sys2Proof.Machine.execCpi d k8 s
  | .sbci d k8 => Sys2Proof.Machine.execSbci d k8 s
  | .subi d k8 => Sys2Proof.Machine.execSubi d k8 s
  | .ori d k8 => Sys2Proof.Machine.execOri d k8 s
  | .andi d k8 => Sys2Proof.Machine.execAndi d k8 s
  | .lddZ d q => Sys2Proof.Machine.execLddZ d q s
  | .lddY d q => Sys2Proof.Machine.execLddY d q s
  | .stdZ q r => Sys2Proof.Machine.execStdZ q r s
  | .stdY q r => Sys2Proof.Machine.execStdY q r s
  | .lds d a => Sys2Proof.Machine.execLds d a s
  | .ldZInc d => Sys2Proof.Machine.execLdZInc d s
  | .ldZDec d => Sys2Proof.Machine.execLdZDec d s
  | .lpmZ d => Sys2Proof.Machine.execLpmZ d s
  | .lpmZInc d => Sys2Proof.Machine.execLpmZInc d s
  | .ldYInc d => Sys2Proof.Machine.execLdYInc d s
  | .ldYDec d => Sys2Proof.Machine.execLdYDec d s
  | .ldX d => Sys2Proof.Machine.execLdX d s
  | .ldXInc d => Sys2Proof.Machine.execLdXInc d s
  | .ldXDec d => Sys2Proof.Machine.execLdXDec d s
  | .pop d => Sys2Proof.Machine.execPop d s
  | .sts a r => Sys2Proof.Machine.execSts a r s
  | .stZInc r => Sys2Proof.Machine.execStZInc r s
  | .stZDec r => Sys2Proof.Machine.execStZDec r s
  | .stYInc r => Sys2Proof.Machine.execStYInc r s
  | .stYDec r => Sys2Proof.Machine.execStYDec r s
  | .stX r => Sys2Proof.Machine.execStX r s
  | .stXInc r => Sys2Proof.Machine.execStXInc r s
  | .stXDec r => Sys2Proof.Machine.execStXDec r s
  | .push r => Sys2Proof.Machine.execPush r s
  | .com d => Sys2Proof.Machine.execCom d s
  | .neg d => Sys2Proof.Machine.execNeg d s
  | .swap d => Sys2Proof.Machine.execSwap d s
  | .inc d => Sys2Proof.Machine.execInc d s
  | .asr d => Sys2Proof.Machine.execAsr d s
  | .lsr d => Sys2Proof.Machine.execLsr d s
  | .ror d => Sys2Proof.Machine.execRor d s
  | .bset f => Sys2Proof.Machine.execBset f s
  | .bclr f => Sys2Proof.Machine.execBclr f s
  | .ijmp => Sys2Proof.Machine.execIjmp s
  | .dec d => Sys2Proof.Machine.execDec d s
  | .jmp k => Sys2Proof.Machine.execJmp k s
  | .call k => Sys2Proof.Machine.execCall k s
  | .ret => Sys2Proof.Machine.execRet s
  | .icall => Sys2Proof.Machine.execIcall s
  | .reti => Sys2Proof.Machine.execReti s
  | .sleep => Sys2Proof.Machine.execSleep s
  | .brk => Sys2Proof.Machine.execBreak s
  | .wdr => Sys2Proof.Machine.execWdr s
  | .lpm => Sys2Proof.Machine.execLpm s
  | .adiw d k6 => Sys2Proof.Machine.execAdiw d k6 s
  | .sbiw d k6 => Sys2Proof.Machine.execSbiw d k6 s
  | .cbi a b => Sys2Proof.Machine.execCbi a b s
  | .sbic a b => Sys2Proof.Machine.execSbic a b s
  | .sbi a b => Sys2Proof.Machine.execSbi a b s
  | .sbis a b => Sys2Proof.Machine.execSbis a b s
  | .mul d r => Sys2Proof.Machine.execMul d r s
  | .ioIn d a => Sys2Proof.Machine.execIn d a s
  | .ioOut a r => Sys2Proof.Machine.execOut a r s
  | .rjmp k => Sys2Proof.Machine.execRjmp k s
  | .rcall k => Sys2Proof.Machine.execRcall k s
  | .ldi d k8 => Sys2Proof.Machine.execLdi d k8 s
  | .brbs f k => Sys2Proof.Machine.execBrbs f k s
  | .brbc f k => Sys2Proof.Machine.execBrbc f k s
  | .bld d b => Sys2Proof.Machine.execBld d b s
  | .bst d b => Sys2Proof.Machine.execBst d b s
  | .sbrc r b => Sys2Proof.Machine.execSbrc r b s
  | .sbrs r b => Sys2Proof.Machine.execSbrs r b s

end Sys2Proof.Machine
end

