-- ==== Sys2Proof/Machine/Fetch.lean ====
section
/-! DEFINITION. Fetch and decode (spec/70_reset_and_hazards.md R346, 60_exceptions.md R275 items 1 to 3), and placing one
instruction where the next fetch reads it. -/

namespace Sys2Proof.Machine

/-- The second-word fetch of LDS, STS, JMP and CALL (30_encoding.md R100, R104), after the first word decoded to `i`. -/
def fetchOperand (w : Word) (i : Instr) (s : State) : Res Instr :=
  if is2Word w then do
    let w2 ← s.flashWord (s.pc.toNat + 1)
    match decodeWords w w2 with
    | some j => .ok j
    | none => raise (.unhandledOpcode w s.pc)
  else .ok i

/-- The instruction at pc, or the first fault of R275 that applies. -/
def fetch (s : State) : Res Instr := do
  let w ← s.flashWord s.pc.toNat
  match decodeWords w 0 with
  | none => raise (.unhandledOpcode w s.pc)
  | some i => fetchOperand w i s

/-- The state with the instruction of bits `w` in flash at pc, a program loaded and the core awake, so that the next step
fetches it (log entry 5). -/
def placeInstr (nbits w : Nat) (s : State) : State :=
  { s with
    flash := s.flash.writeBytes (2 * s.pc.toNat) ((tableBytes nbits w).take (Config.flashBytes - 2 * s.pc.toNat))
    hasProgram := true
    sleeping := false }

end Sys2Proof.Machine
end

