-- ==== Sys2Proof/Machine/Cycle.lean ====
section
/-! DEFINITION. The reference step (spec/70_reset_and_hazards.md R345): the body (an instruction, or a sleeping advance),
then the tail; and the state a faulted machine is left in (60_exceptions.md R274, R275). -/

namespace Sys2Proof.Machine

/-- A sleeping advance by `d` cycles (60_exceptions.md R330): nothing is fetched. -/
def sleepAdvance (d : Nat) (s : State) : State := { s with cycles := s.cycles + d }

/-- `opcode_index` of R305: the place, from 0, of the row of `opcodeTable` a word hits (85 where it hits none). It follows
the original's table order, which is not given (91_not_in_source.md N29); DESIGN CHOICE (log entry 10): the order of
spec/opcode_table.json, which is not that of the table of 30_encoding.md R106 in the places 56 to 66. -/
def opcodeIndex (w : Word) : Nat := opcodeTable.findIdx (fun row => row.hits w)

/-- The sample callback (60_exceptions.md R305) for the instruction at pc, where the host attached it (R347). -/
def sampleHook (s : State) : State :=
  { s with
    hostLog := if s.params.analyticsHooks then
        .sample (opcodeIndex (word16 (s.flashAt (2 * s.pc.toNat + 1)) (s.flashAt (2 * s.pc.toNat)))) s.pc :: s.hostLog
      else s.hostLog }

/-- The breakpoint-check callback, which precedes a fetch (R345). -/
def breakpointHook (s : State) : State := s.notify .breakpointCheck

/-- The callbacks before an instruction that is fetched executes: the breakpoint check, then the sample. -/
def observe (s : State) : State := sampleHook (breakpointHook s)

/-- Fetch, decode and execute one instruction. -/
def runInstr (s : State) : Host.Outcome State Fault Refusal :=
  match fetch s with
  | .ok i => exec i (observe s)
  | .error (.fault f) => .fault f
  | .error (.refused r) => .refused r

/-- The body of a step: asleep, the reference advance d = 1 (R330, log entry 13); else one instruction. -/
def stepBody (s : State) : Host.Outcome State Fault Refusal :=
  if s.sleeping then .next (sleepAdvance 1 s) else runInstr s

/-- The tail of a step after its body. -/
def thenTail : Host.Outcome State Fault Refusal → Host.Outcome State Fault Refusal
  | .next t => outcome (afterBody t)
  | .fault f => .fault f
  | .refused r => .refused r

/-- `Step()` (R345); without a program no step is enabled (10_state.md R33). -/
def stepCore (s : State) : Host.Outcome State Fault Refusal :=
  if s.hasProgram then thenTail (stepBody s) else .refused .noProgram

/-- What the dispatch at the end of a step faults with, and the state then left: everything before the dispatch is kept
(60_exceptions.md R275 item 6). -/
def stoppedByTail (t : State) : Option (Fault × State) :=
  match catchUpAll t.cycles t with
  | .error (.fault f) => some (f, t)
  | .error (.refused _) => none
  | .ok u =>
    match dispatch (recognise u) with
    | .error (.fault f) => some (f, recognise u)
    | .error (.refused _) => none
    | .ok _ => none

/-- The state a body that faults leaves: it has changed nothing (60_exceptions.md R274), but the host has been called. -/
def bodyUndone (s : State) : State :=
  match fetch s with
  | .ok _ => observe s
  | .error _ => breakpointHook s

/-- The fault a step raises and the state the stopped machine holds (60_exceptions.md R270, R274). None where the step does
not fault. -/
def stoppedState (s : State) : Option (Fault × State) :=
  if s.hasProgram then
    match stepBody s with
    | .fault f => some (f, bodyUndone s)
    | .refused _ => none
    | .next t => stoppedByTail t
  else none

end Sys2Proof.Machine
end

