-- ==== Sys2Proof/Machine/HostOps.lean ====
section
/-! DEFINITION. What the host does to the machine (spec/70_reset_and_hazards.md R340, R341, R347; 20_memory.md R69). -/

namespace Sys2Proof.Machine

/-- Load a program (R341, 20_memory.md R61): truncated to the flash size, the rest 0x00. -/
def loadProgram (image : List Byte) (s : State) : State :=
  { s with flash := Memory.writeBytes [] 0 (image.take Config.flashBytes), hasProgram := true }

/-- Reset by the host (R340): every item of 10_state.md R48 at its listed value (SP at the parameter SP_RESET), flash,
`hasProgram` and the parameters as they were; R0 to R31, SRAM and EEPROM are unspecified and so arguments (of `sram` the addresses from 0x100 on). -/
def hostReset (regs : Vector Byte 32) (sram eeprom : Memory) (s : State) : State :=
  { State.reset with
    gpr := regs
    sp := s.params.spReset
    data := sram.filter (fun c => decide (sramStart ≤ c.1))
    eeprom := eeprom
    flash := s.flash
    hasProgram := s.hasProgram
    params := s.params
    draws := s.draws
    hostLog := s.hostLog }

/-- Full resynchronisation (20_memory.md R69): the refresh of every hooked address, at the present cycle count. -/
def fullResync (s : State) : Res State := do
  let t ← refresh aEECR s
  let u ← refresh aTCNT0 t
  let v ← refresh aPLLCSR u
  refresh aADCSRA v

/-- `flags` of R347: which of the host's instrumentation is attached. -/
structure RunFlags where
  /-- the debug hooks: the breakpoint check and the call-stack notifications -/
  debug : Bool
  /-- the analytics hook: the sample -/
  analytics : Bool
  deriving DecidableEq, Repr

/-- The host options of a run set (R347). -/
def State.setHooks (s : State) (flags : RunFlags) : State :=
  { s with params := { s.params with debugHooks := flags.debug, analyticsHooks := flags.analytics } }

/-- The loop of R347, for at most `k` steps. `early n s` is the breakpoint callback's answer when `n` steps of the run are
left, asked before each step where the debug hooks are attached; an early return leaves the machine between two steps. -/
def runTo (early : Nat → State → Bool) (target : Nat) : Nat → State → Host.Outcome State Fault Refusal
  | 0, s => .next s
  | k + 1, s =>
    if s.cycles < target then
      if s.params.debugHooks && early (k + 1) s then .next (breakpointHook s)
      else
        match step s with
        | .next t => runTo early target k t
        | .fault f => .fault f
        | .refused r => .refused r
    else .next s

/-- `execute(B, flags)` (R347), `early` the breakpoint callback's answers: with counts of `CYC` in R7's range every step adds
at least one cycle, so B steps suffice. -/
def execute (flags : RunFlags) (early : Nat → State → Bool) (budget : Nat) (s : State) :
    Host.Outcome State Fault Refusal :=
  runTo early (s.cycles + budget) budget (s.setHooks flags)

end Sys2Proof.Machine
end

