-- ==== Sys2Proof/Safety.lean ====
section
/-! DEFINITION. What counts as a safe run, the invariant every step keeps, and the words the claims are stated in: what an
instruction leaves unchanged. -/

namespace Sys2Proof.Machine

/-! ## Faults -/

/-- The step goes wrong (spec/60_exceptions.md R270): a faulted machine has no further step. -/
def State.faults (s : State) : Prop := ∃ f, step s = .fault f

/-! ## The invariant -/

/-- The data list is canonical and holds only I/O, extended I/O and SRAM bytes that have no other home (20_memory.md R60,
10_state.md R25, R26). -/
def State.dataOk (s : State) : Bool :=
  s.data.wf && s.data.within ioStart Config.dataSize
    && s.data.all (fun c => decide (c.1 ≠ aSPL) && decide (c.1 ≠ aSPH) && decide (c.1 ≠ aSREG))

/-- The EEPROM and flash lists are canonical and inside their spaces (20_memory.md R61, R64). -/
def State.storesOk (s : State) : Bool :=
  s.eeprom.wf && s.eeprom.within 0 Config.eepromBytes && s.flash.wf && s.flash.within 0 Config.flashBytes

/-- No timestamp is in the future (10_state.md R34). -/
def State.timesOk (s : State) : Bool :=
  decide (s.last.eewe ≤ s.cycles) && decide (s.last.pll ≤ s.cycles) && decide (s.last.t0 ≤ s.cycles)
    && decide (s.last.t3 ≤ s.cycles) && decide (s.last.t4 ≤ s.cycles) && decide (s.last.adc ≤ s.cycles)

/-- Only the four sources of 60_exceptions.md R281 are ever pending. -/
def State.pendingOk (s : State) : Bool :=
  decide (s.pending &&& ~~~(1#43 <<< 23 ||| 1#43 <<< 32 ||| 1#43 <<< 38 ||| 1#43 <<< 41) = 0)

/-- EERE and EEPE read back 0 (20_memory.md R74), and PLOCK is 1 only while PLLE is 1 (R75, R76). -/
def State.ioOk (s : State) : Bool :=
  !s.ioBit aEECR 0 && !s.ioBit aEECR 1 && (!s.ioBit aPLLCSR 0 || s.ioBit aPLLCSR 1)

/-- Every count `CYC` is overridden with is one a handler may add, 1 to 5 (00_scope.md R7, R12). -/
def State.cycOk (s : State) : Bool := s.params.cycOverrides.all (fun o => decide (1 ≤ o.2) && decide (o.2 ≤ 5))

/-- The invariant. -/
def State.inv (s : State) : Bool := s.dataOk && s.storesOk && s.timesOk && s.pendingOk && s.ioOk && s.cycOk

/-! ## What is unchanged -/

/-- Every general register but those of `l`. -/
def regsKept (l : List Reg) (s t : State) : Prop := ∀ r, r ∉ l → t.reg r = s.reg r

/-- Every byte of I/O, extended I/O, SRAM, EEPROM and flash. -/
def memKept (s t : State) : Prop :=
  (∀ a, t.byteAt a = s.byteAt a) ∧ (∀ a, t.eeprom.read a = s.eeprom.read a) ∧ (∀ a, t.flashAt a = s.flashAt a)

/-- The scheduler's state, the timestamps, the parameters and the free-value counter. -/
def schedulerKept (s t : State) : Prop :=
  t.sleeping = s.sleeping ∧ t.pending = s.pending ∧ t.insideInterrupt = s.insideInterrupt ∧ t.hasProgram = s.hasProgram
    ∧ t.last = s.last ∧ t.t3Triggered = s.t3Triggered ∧ t.params = s.params ∧ t.draws = s.draws

/-- The same, and the host has not been called. -/
def systemKept (s t : State) : Prop := schedulerKept s t ∧ t.hostLog = s.hostLog

/-- Every flag but those of `l`. -/
def flagsKept (l : List BitNo) (s t : State) : Prop := ∀ f, f ∉ l → t.flags.get f = s.flags.get f

/-- Everything but the registers of `l`, the flags, pc and cycles: the frame of an instruction on registers. -/
def onlyRegs (l : List Reg) (s t : State) : Prop := regsKept l s t ∧ t.sp = s.sp ∧ memKept s t ∧ systemKept s t

/-- The count of case `c` of `CYC` charged, which is `n` where no count of R360's table is overridden. That every count may be
overridden, those the source itself gives (branches, skips, LDI, ADD, RJMP) too, is the model's choice (log entry 12). -/
def charged (c : CycCase) (n : Nat) (s t : State) : Prop :=
  t.cycles = s.cycles + s.params.cyc c ∧ (s.params.cycOverrides = [] → t.cycles = s.cycles + n)

/-- pc moved on by `words` and the count of case `c` of `CYC` charged, by default `n`. -/
def movedOn (words : Nat) (c : CycCase) (n : Nat) (s t : State) : Prop :=
  t.pc = s.pc + BitVec.ofNat 16 words ∧ charged c n s t

/-- The host log after a call of a debugger callback: one entry more where they are attached (60_exceptions.md R305,
70_reset_and_hazards.md R347). -/
def notified (e : HostEvent) (s : State) : List HostEvent := if s.params.debugHooks then e :: s.hostLog else s.hostLog

/-! ## Where an instruction reads and writes data addresses (20_memory.md R93, 45_data_transfer.md R239) -/

/-- The data address an instruction reads through `MemRead`. -/
def loadTarget (s : State) : Instr → Option Nat
  | .lds _ a => some a.toNat
  | .lddZ _ q => some (dispAddress .z q s).toNat
  | .lddY _ q => some (dispAddress .y q s).toNat
  | .ldX _ => some (s.ptr .x).toNat
  | .ldXInc _ => some (s.ptr .x).toNat
  | .ldXDec _ => some (s.ptr .x - 1).toNat
  | .ldYInc _ => some (s.ptr .y).toNat
  | .ldYDec _ => some (s.ptr .y - 1).toNat
  | .ldZInc _ => some (s.ptr .z).toNat
  | .ldZDec _ => some (s.ptr .z - 1).toNat
  | .ioIn _ a => some (ioAddress6 a)
  | .sbi a _ => some (ioAddress5 a)
  | .cbi a _ => some (ioAddress5 a)
  | .sbic a _ => some (ioAddress5 a)
  | .sbis a _ => some (ioAddress5 a)
  | .sleep => some aSMCR
  | _ => none

/-- The data address an instruction writes through `MemWrite`. -/
def storeTarget (s : State) : Instr → Option Nat
  | .sts a _ => some a.toNat
  | .stdZ q _ => some (dispAddress .z q s).toNat
  | .stdY q _ => some (dispAddress .y q s).toNat
  | .stX _ => some (s.ptr .x).toNat
  | .stXInc _ => some (s.ptr .x).toNat
  | .stXDec _ => some (s.ptr .x - 1).toNat
  | .stYInc _ => some (s.ptr .y).toNat
  | .stYDec _ => some (s.ptr .y - 1).toNat
  | .stZInc _ => some (s.ptr .z).toNat
  | .stZDec _ => some (s.ptr .z - 1).toNat
  | .ioOut a _ => some (ioAddress6 a)
  | .sbi a _ => some (ioAddress5 a)
  | .cbi a _ => some (ioAddress5 a)
  | _ => none

/-- The data addresses an instruction writes through SP (44_call_return_stack.md R195, R202). -/
def stackTargets (s : State) : Instr → List Nat
  | .push _ => [s.sp.toNat]
  | .rcall _ => [s.sp.toNat, (s.sp - 1).toNat]
  | .icall => [s.sp.toNat, (s.sp - 1).toNat]
  | .call _ => [s.sp.toNat, (s.sp - 1).toNat]
  | _ => []

/-- The bytes a refresh at `a` may change (20_memory.md R73, R75, R79, 60_exceptions.md R312). -/
def refreshBytes (a : Nat) : List Nat :=
  if a = aTCNT0 then [aTCNT0, aTIFR0] else if a = aEECR ∨ a = aPLLCSR ∨ a = aADCSRA then [a] else []

/-- The bytes a write at `a` may change (20_memory.md R67, R74, 60_exceptions.md R314, R315). -/
def writeBytesAt (a : Nat) : List Nat :=
  if a = aEECR then [aEECR, aEEDR]
  else if a = aTCCR0B then [aTCCR0B, aTCNT0, aTIFR0]
  else if a = aTCNT0 then [aTCNT0, aTIFR0]
  else [a]

/-- Every data byte an instruction may change. -/
def bytesTouched (i : Instr) (s : State) : List Nat :=
  stackTargets s i ++ ((loadTarget s i).elim [] refreshBytes ++ (storeTarget s i).elim [] writeBytesAt)

/-! ## What an instruction may write -/

/-- The general register at a data address (10_state.md R20). -/
def regAt (a : Nat) : List Reg := if h : a < 32 then [⟨a, h⟩] else []

/-- The two registers of a pointer. -/
def Ptr.regs (p : Ptr) : List Reg := [p.low, p.low + 1]

/-- The registers an instruction names as written: its destination and a pointer it updates. -/
def namedWrites : Instr → List Reg
  | .movw d _ => [d, d + 1]
  | .muls _ _ => [0, 1]
  | .mulsu _ _ => [0, 1]
  | .fmul _ _ => [0, 1]
  | .fmuls _ _ => [0, 1]
  | .fmulsu _ _ => [0, 1]
  | .mul _ _ => [0, 1]
  | .sbc d _ => [d]
  | .add d _ => [d]
  | .sub d _ => [d]
  | .adc d _ => [d]
  | .and d _ => [d]
  | .eor d _ => [d]
  | .or d _ => [d]
  | .mov d _ => [d]
  | .sbci d _ => [d]
  | .subi d _ => [d]
  | .ori d _ => [d]
  | .andi d _ => [d]
  | .ldi d _ => [d]
  | .lddZ d _ => [d]
  | .lddY d _ => [d]
  | .lds d _ => [d]
  | .ldX d => [d]
  | .ldXInc d => d :: Ptr.regs .x
  | .ldXDec d => d :: Ptr.regs .x
  | .ldYInc d => d :: Ptr.regs .y
  | .ldYDec d => d :: Ptr.regs .y
  | .ldZInc d => d :: Ptr.regs .z
  | .ldZDec d => d :: Ptr.regs .z
  | .lpm => [0]
  | .lpmZ d => [d]
  | .lpmZInc d => d :: Ptr.regs .z
  | .stXInc _ => Ptr.regs .x
  | .stXDec _ => Ptr.regs .x
  | .stYInc _ => Ptr.regs .y
  | .stYDec _ => Ptr.regs .y
  | .stZInc _ => Ptr.regs .z
  | .stZDec _ => Ptr.regs .z
  | .pop d => [d]
  | .com d => [d]
  | .neg d => [d]
  | .swap d => [d]
  | .inc d => [d]
  | .dec d => [d]
  | .asr d => [d]
  | .lsr d => [d]
  | .ror d => [d]
  | .adiw d _ => [d, d + 1]
  | .sbiw d _ => [d, d + 1]
  | .ioIn d _ => [d]
  | .bld d _ => [d]
  | _ => []

/-- Every general register an instruction may write: those it names, and one reached as a data address
(70_reset_and_hazards.md R359). -/
def regsWritten (i : Instr) (s : State) : List Reg := namedWrites i ++ (storeTarget s i).elim [] regAt

/-- The flags an instruction writes by its own rule, as the table of 10_state.md R57 lists them. -/
def flagColumns : Instr → List BitNo
  | .add _ _ => [0, 1, 2, 3, 4, 5]
  | .adc _ _ => [0, 1, 2, 3, 4, 5]
  | .sub _ _ => [0, 1, 2, 3, 4, 5]
  | .subi _ _ => [0, 1, 2, 3, 4, 5]
  | .cp _ _ => [0, 1, 2, 3, 4, 5]
  | .cpi _ _ => [0, 1, 2, 3, 4, 5]
  | .neg _ => [0, 1, 2, 3, 4, 5]
  | .sbc _ _ => [0, 1, 2, 3, 4, 5]
  | .sbci _ _ => [0, 1, 2, 3, 4, 5]
  | .cpc _ _ => [0, 1, 2, 3, 4, 5]
  | .and _ _ => [1, 2, 3, 4]
  | .andi _ _ => [1, 2, 3, 4]
  | .or _ _ => [1, 2, 3, 4]
  | .ori _ _ => [1, 2, 3, 4]
  | .eor _ _ => [1, 2, 3, 4]
  | .com _ => [0, 1, 2, 3, 4]
  | .inc _ => [1, 2, 3, 4]
  | .dec _ => [1, 2, 3, 4]
  | .lsr _ => [0, 1, 2, 3, 4]
  | .ror _ => [0, 1, 2, 3, 4]
  | .asr _ => [0, 1, 2, 3, 4]
  | .adiw _ _ => [0, 1, 2, 3, 4]
  | .sbiw _ _ => [0, 1, 2, 3, 4]
  | .mul _ _ => [0, 1]
  | .muls _ _ => [0, 1]
  | .mulsu _ _ => [0, 1]
  | .fmul _ _ => [0, 1]
  | .fmuls _ _ => [0, 1]
  | .fmulsu _ _ => [0, 1]
  | .bset f => [f]
  | .bclr f => [f]
  | .bst _ _ => [6]
  | .reti => [7]
  | _ => []

/-- Every flag an instruction may write: the columns of R57, and all eight where it stores to SREG. -/
def flagsWritten (i : Instr) (s : State) : List BitNo :=
  flagColumns i ++ (if storeTarget s i = some aSREG then [0, 1, 2, 3, 4, 5, 6, 7] else [])

/-- The instruction moves SP: through the stack, or by a store to SPL or SPH (10_state.md R27). -/
def movesSp (i : Instr) (s : State) : Prop :=
  (∃ r, i = .push r) ∨ (∃ d, i = .pop d) ∨ (∃ k, i = .rcall k) ∨ i = .icall ∨ (∃ k, i = .call k) ∨ i = .ret ∨ i = .reti
    ∨ storeTarget s i = some aSPL ∨ storeTarget s i = some aSPH

/-- The CALL/RET-class instructions, which notify the debugger's call-stack hook (60_exceptions.md R305). -/
def callsOrReturns : Instr → Bool
  | .rcall _ => true
  | .icall => true
  | .call _ => true
  | .ret => true
  | .reti => true
  | _ => false

/-- The cases of `CYC` an instruction may be charged (70_reset_and_hazards.md R360). -/
def cycCases : Instr → List CycCase
  | .nop => [.nop]
  | .movw _ _ => [.movw]
  | .muls _ _ => [.muls]
  | .mulsu _ _ => [.mulsu]
  | .fmul _ _ => [.fmul]
  | .fmuls _ _ => [.fmuls]
  | .fmulsu _ _ => [.fmulsu]
  | .cpc _ _ => [.cpc]
  | .sbc _ _ => [.sbc]
  | .add _ _ => [.add]
  | .cpse _ _ => [.cpse 0, .cpse 1, .cpse 2]
  | .cp _ _ => [.cp]
  | .sub _ _ => [.sub]
  | .adc _ _ => [.adc]
  | .and _ _ => [.and]
  | .eor _ _ => [.eor]
  | .or _ _ => [.or]
  | .mov _ _ => [.mov]
  | .cpi _ _ => [.cpi]
  | .sbci _ _ => [.sbci]
  | .subi _ _ => [.subi]
  | .ori _ _ => [.ori]
  | .andi _ _ => [.andi]
  | .lddZ _ _ => [.ldd]
  | .lddY _ _ => [.ldd]
  | .stdZ _ _ => [.std]
  | .stdY _ _ => [.std]
  | .lds _ _ => [.lds]
  | .ldZInc _ => [.ld]
  | .ldZDec _ => [.ld]
  | .lpmZ _ => [.lpm]
  | .lpmZInc _ => [.lpm]
  | .ldYInc _ => [.ld]
  | .ldYDec _ => [.ld]
  | .ldX _ => [.ld]
  | .ldXInc _ => [.ld]
  | .ldXDec _ => [.ld]
  | .pop _ => [.pop]
  | .sts _ _ => [.sts]
  | .stZInc _ => [.st]
  | .stZDec _ => [.st]
  | .stYInc _ => [.st]
  | .stYDec _ => [.st]
  | .stX _ => [.st]
  | .stXInc _ => [.st]
  | .stXDec _ => [.st]
  | .push _ => [.push]
  | .com _ => [.com]
  | .neg _ => [.neg]
  | .swap _ => [.swap]
  | .inc _ => [.inc]
  | .asr _ => [.asr]
  | .lsr _ => [.lsr]
  | .ror _ => [.ror]
  | .bset _ => [.bset]
  | .bclr _ => [.bclr]
  | .ijmp => [.ijmp]
  | .dec _ => [.dec]
  | .jmp _ => [.jmp]
  | .call _ => [.call]
  | .ret => [.ret]
  | .icall => [.icall]
  | .reti => [.reti]
  | .sleep => [.sleep]
  | .brk => [.brk]
  | .wdr => [.wdr]
  | .lpm => [.lpm]
  | .adiw _ _ => [.adiw]
  | .sbiw _ _ => [.sbiw]
  | .cbi _ _ => [.cbi]
  | .sbic _ _ => [.sbic 0, .sbic 1, .sbic 2]
  | .sbi _ _ => [.sbi]
  | .sbis _ _ => [.sbis 0, .sbis 1, .sbis 2]
  | .mul _ _ => [.mul]
  | .ioIn _ _ => [.ioIn]
  | .ioOut _ _ => [.ioOut]
  | .rjmp _ => [.rjmp]
  | .rcall _ => [.rcall]
  | .ldi _ _ => [.ldi]
  | .brbs _ _ => [.brbs true, .brbs false]
  | .brbc _ _ => [.brbc true, .brbc false]
  | .bld _ _ => [.bld]
  | .bst _ _ => [.bst]
  | .sbrc _ _ => [.sbrc 0, .sbrc 1, .sbrc 2]
  | .sbrs _ _ => [.sbrs 0, .sbrs 1, .sbrs 2]

/-! ## When an access of the data space is answered -/

/-- `MemRead` at `a` answers: in the data space (20_memory.md R65), and timer0's divisor is defined where its counter is
caught up (60_exceptions.md R311). -/
def readOk (a : Nat) (s : State) : Prop :=
  a < Config.dataSize ∧ (a = aTCNT0 → clockSelect (s.byteAt aTCCR0B) < 6)

/-- The EEPROM write of R74 is triggered: EEPE written with EEMPE still 1 after the refresh. -/
def eepromWriteGo (v : Byte) (s : State) : Bool := v.getLsbD 1 && (refreshEecr s).ioBit aEECR 2

/-- `MemWrite` of `v` at `a` answers: in the data space, timer0's divisor defined where it is needed, and at EECR the EEPROM
address in range and the mode not reserved (20_memory.md R74). -/
def writeOk (a : Nat) (v : Byte) (s : State) : Prop :=
  a < Config.dataSize
    ∧ (a = aTCNT0 ∨ a = aTCCR0B → clockSelect (s.byteAt aTCCR0B) < 6)
    ∧ (a = aEECR → (v.getLsbD 0 = true ∨ eepromWriteGo v s = true → s.eear < Config.eepromBytes)
        ∧ (eepromWriteGo v s = true → v.toNat / 16 % 4 ≠ 3))

/-! ## The verdicts of an addition and a subtraction (40_arithmetic.md R130, R131, R147) -/

/-- The result and the flags of a + b + c on bytes: C the unsigned verdict, V the signed one, S the sign of the exact
signed sum, H the low nibble's carry. -/
def addVerdict (a b : Byte) (c : Bool) (r : Byte) (f : Flags) : Prop :=
  r.toNat = (a.toNat + b.toNat + c.toNat) % 256
    ∧ f.c = decide (255 < a.toNat + b.toNat + c.toNat)
    ∧ f.h = decide (15 < a.toNat % 16 + b.toNat % 16 + c.toNat)
    ∧ f.v = decide (a.toInt + b.toInt + (c.toNat : Int) < -128 ∨ 127 < a.toInt + b.toInt + (c.toNat : Int))
    ∧ f.n = decide (128 ≤ r.toNat)
    ∧ f.z = decide (r.toNat = 0)
    ∧ f.s = decide (a.toInt + b.toInt + (c.toNat : Int) < 0)

/-- The result and the flags of a - b - c on bytes; `z0` is what Z is ANDed with (true where it is not chained). -/
def subVerdict (a b : Byte) (c z0 : Bool) (r : Byte) (f : Flags) : Prop :=
  (r.toNat : Int) = ((a.toNat : Int) - b.toNat - c.toNat) % 256
    ∧ f.c = decide (a.toNat < b.toNat + c.toNat)
    ∧ f.h = decide (a.toNat % 16 < b.toNat % 16 + c.toNat)
    ∧ f.v = decide (a.toInt - b.toInt - (c.toNat : Int) < -128 ∨ 127 < a.toInt - b.toInt - (c.toNat : Int))
    ∧ f.n = decide (128 ≤ r.toNat)
    ∧ f.z = (decide (r.toNat = 0) && z0)
    ∧ f.s = decide (a.toInt - b.toInt - (c.toNat : Int) < 0)

/-- The flags the logic instructions write, from their result (41_logic_and_bit.md R150). -/
def logicVerdict (r : Byte) (f : Flags) : Prop :=
  f.v = false ∧ f.n = decide (128 ≤ r.toNat) ∧ f.z = decide (r.toNat = 0) ∧ f.s = f.n

/-- The flags the shifts write, from their result and the bit shifted out (41_logic_and_bit.md R157). -/
def shiftVerdict (r : Byte) (out : Bool) (f : Flags) : Prop :=
  f.c = out ∧ f.n = decide (128 ≤ r.toNat) ∧ f.z = decide (r.toNat = 0) ∧ f.v = (f.n ^^ f.c) ∧ f.s = (f.n ^^ f.v)

/-! ## Skips, overlaps, and the bytes of the timers -/

/-- The flash word after the one at pc. -/
def nextWord (s : State) : Word := word16 (s.flashAt (2 * (s.pc.toNat + 1) + 1)) (s.flashAt (2 * (s.pc.toNat + 1)))

/-- The words, and by default the cycles, a skip instruction takes (43_branch_skip.md R185): 1 not taken; else 2 or 3, by the first
word alone of the instruction skipped. -/
def skipWords (cond : Bool) (s : State) : Nat := if cond then (if is2Word (nextWord s) then 3 else 2) else 1

/-- The forms R238 of 45_data_transfer.md refuses: the data register is part of the pointer the form modifies. -/
def overlapRefused : Instr → Bool
  | .ldXInc d => decide (d = 26) || decide (d = 27)
  | .ldXDec d => decide (d = 26) || decide (d = 27)
  | .stXInc r => decide (r = 26) || decide (r = 27)
  | .stXDec r => decide (r = 26) || decide (r = 27)
  | .ldYInc d => decide (d = 28) || decide (d = 29)
  | .ldYDec d => decide (d = 28) || decide (d = 29)
  | .stYInc r => decide (r = 28) || decide (r = 29)
  | .stYDec r => decide (r = 28) || decide (r = 29)
  | .ldZInc d => decide (d = 30) || decide (d = 31)
  | .ldZDec d => decide (d = 30) || decide (d = 31)
  | .stZInc r => decide (r = 30) || decide (r = 31)
  | .stZDec r => decide (r = 30) || decide (r = 31)
  | .lpmZInc d => decide (d = 30) || decide (d = 31)
  | _ => false

/-- Every byte of I/O, extended I/O and SRAM but those at the addresses of `l`, and all of EEPROM and flash. -/
def bytesKept (l : List Nat) (s t : State) : Prop :=
  (∀ a, a ∉ l → t.byteAt a = s.byteAt a) ∧ (∀ a, t.eeprom.read a = s.eeprom.read a) ∧ (∀ a, t.flashAt a = s.flashAt a)

/-- The bytes the timers' catch-up may change (60_exceptions.md R312, R318, R322, R323). -/
def timerBytes : List Nat := [aTCNT0, aTIFR0, aTCNT3L, aTCNT3H, aTIFR3, aTCNT4, aTC4H, aTIFR4, aPORTC]

/-- `T4_COMPARE` does not see what a catch-up changes: states that differ only in the timers' bytes, the timestamps and
timer3's memo have the same target. The suggestion of 60_exceptions.md R321 is such a function. -/
def compareSteady (p : Params) : Prop :=
  ∀ a b : State, a.params = p → b = { a with data := b.data, last := b.last, t3Triggered := b.t3Triggered } →
    (∀ x, x ∉ timerBytes → b.byteAt x = a.byteAt x) → t4Compare b = t4Compare a

/-- A data address with a byte of its own and no hook on read or write (20_memory.md R68). -/
def plainByte (a : Nat) : Bool :=
  decide (32 ≤ a) && decide (a < Config.dataSize)
    && !([aSPL, aSPH, aSREG, aEECR, aPLLCSR, aSPDR, aTCCR0B, aTCNT0, aADCSRA].contains a) && (portAt a).isNone

/-! ## The words R108 lists as unhandled -/

/-- The rows of the table of 30_encoding.md R108, in its order. -/
def reservedWord (w : Word) : Bool :=
  let n := w.toNat
  let low := n % 16
  (decide (1 ≤ n) && decide (n ≤ 0x00FF))
    || (decide (w &&& 0xFE00 = 0x9000) && [3, 6, 7, 8, 11].contains low)
    || (decide (w &&& 0xFE00 = 0x9200) && [3, 4, 5, 6, 7, 8, 11].contains low)
    || (decide (w &&& 0xFE00 = 0x9400) && [4, 11].contains low)
    || (decide (w &&& 0xFF0F = 0x9409) && decide (n ≠ 0x9409))
    || (decide (w &&& 0xFF0F = 0x9509) && decide (n ≠ 0x9509))
    || [0x9528, 0x9538, 0x9548, 0x9558, 0x9568, 0x9578, 0x95B8, 0x95D8, 0x95E8, 0x95F8].contains n
    || decide (w &&& 0xF808 = 0xF808)

end Sys2Proof.Machine
end

