-- ==== Sys2Proof/Certificates/Slice0/Obligations.lean ====
section
/-! DEFINITION. The statements for the provers, each naming the rules of spec/ it formalises. -/

section

open Sys2Proof Sys2Proof.Machine

/-! ## Encoding (spec/30_encoding.md) -/

/-- R102, R106: decoding the bytes of a well-formed instruction's words gives the instruction, and leaves what
follows. The encodings are the spec's own (R102, R106: general knowledge, D1). -/
def Obligations.DecodeOfEncode : Prop :=
  ∀ (i : Instr) (rest : List Byte), i.wellFormed = true → decode (bytesOfWords (encode i) ++ rest) = .ok (i, rest)

/-- R100, R102, R106: an instruction read from a word (and a second one) is well-formed, and encoding it gives those
words back: no bit of a word is read as nothing. The encodings are the spec's own (R102, R104, R106: general
knowledge, D1). -/
def Obligations.EncodeOfDecode : Prop :=
  ∀ (w w2 : Word) (i : Instr), decodeWords w w2 = some i →
    i.wellFormed = true ∧ encode i = if is2Word w then [w, w2] else [w]

/-- R107, both invariants: every pattern lies inside its mask, and no word matches two rows. -/
def Obligations.TableRowsAreDisjoint : Prop :=
  (∀ row ∈ opcodeTable, row.mask &&& row.pat = row.pat)
    ∧ opcodeTable.Pairwise (fun a b => ∀ w : Word, ¬ (a.hits w = true ∧ b.hits w = true))

/-- R108: the unhandled first words are exactly those of its table. The list is the spec's derivation from R106, and
SPM and its like are unhandled by its decision D16. -/
def Obligations.UnhandledWords : Prop :=
  ∀ w w2 : Word, decodeWords w w2 = none ↔ reservedWord w = true

/-- R106: a few words written out from the table decode to the instruction they stand for. The encodings are the
spec's own (general knowledge, D1). -/
def Obligations.SampleWords : Prop :=
  decodeWords 0b0000111100000001 0 = some (.add 16 17) ∧ decodeWords 0b1001010011111000 0 = some (.bclr 7)
    ∧ decodeWords 0b0000001110001001 0 = some (.fmulsu 16 17) ∧ decodeWords 0b1111001111101001 0 = some (.brbs 1 0b1111101)
    ∧ decodeWords 0b1001010100001000 0 = some .ret ∧ decodeWords 0b1010110000101111 0 = some (.lddY 2 63)
    ∧ decodeWords 0b1001010110001000 0 = some .sleep ∧ decodeWords 0b1001010000001101 0 = some (.jmp 0x10000)

/-! ## The machine (spec/70_reset_and_hazards.md, spec/60_exceptions.md) -/

/-- R345, R346, R100: when the four flash bytes from pc on decode to `i`, a step of an awake machine with a program is
`exec i` after the host's callbacks and, after its next state, the tail: timers caught up to the new cycle count,
recognition, dispatch. The callbacks (R305, R349) add to the host log only, and only those the host attached. Taking
the reference step as the definition is the spec's decision D10; what the log holds and how opcodes are numbered are
the model's own (log entry 10). -/
def Obligations.StepRunsDecodedInstruction : Prop :=
  (∀ (s : State) (i : Instr) (rest : List Byte), s.hasProgram = true → s.sleeping = false → s.pc.toNat < 16384 →
    decode [s.flashAt (2 * s.pc.toNat), s.flashAt (2 * s.pc.toNat + 1), s.flashAt (2 * s.pc.toNat + 2),
      s.flashAt (2 * s.pc.toNat + 3)] = .ok (i, rest) → (rest = [] → s.pc.toNat + 1 < 16384) →
    step s = match exec i (observe s) with
      | .next t => outcome (do
          let u ← catchUpAll t.cycles t
          dispatch (recognise u))
      | .fault f => .fault f
      | .refused r => .refused r)
    ∧ ∀ (s : State) (w : Word) (n : Nat), s.flashWord s.pc.toNat = .ok w → n = opcodeTable.findIdx (fun row => row.hits w) →
      observe s = { s with hostLog :=
        if s.params.analyticsHooks then .sample n s.pc :: notified .breakpointCheck s else notified .breakpointCheck s }

/-- R330, R331, R332: a sleeping step fetches nothing: it adds one cycle, catches the timers up, recognises and
dispatches. With interrupts disabled it stays asleep, and of everything else only timer bytes, timer baselines,
timer3's memo and the pending mask change; whatever I is, it stays asleep where nothing is dispatched, and is left
awake by an interrupt entry alone. The advance by 1 is the derived reference choice of R330 (log entry 13). -/
def Obligations.SleepingStep : Prop :=
  ∀ s : State, s.hasProgram = true → s.sleeping = true →
    (step s = outcome (do
      let u ← catchUpAll (s.cycles + 1) { s with cycles := s.cycles + 1 }
      dispatch (recognise u)))
    ∧ ∀ t : State, step s = .next t →
      (s.flags.i = false → t.sleeping = true ∧ t.cycles = s.cycles + 1 ∧ t.pc = s.pc ∧ t.gpr = s.gpr ∧ t.flags = s.flags
        ∧ t.sp = s.sp ∧ t.insideInterrupt = s.insideInterrupt ∧ t.hostLog = s.hostLog ∧ t.draws = s.draws
        ∧ t.params = s.params ∧ t.hasProgram = true ∧ t.last.eewe = s.last.eewe ∧ t.last.pll = s.last.pll
        ∧ t.last.adc = s.last.adc)
      ∧ (s.flags.i = false → bytesKept timerBytes s t)
      ∧ (t.sleeping = true → ∃ u, catchUpAll (s.cycles + 1) { s with cycles := s.cycles + 1 } = .ok u ∧ t = recognise u
          ∧ (s.flags.i = false ∨ t.pending = 0))
      ∧ (t.sleeping = false → s.flags.i = true ∧ t.flags.i = false ∧ t.insideInterrupt = true ∧ t.sp = s.sp - 2
          ∧ word16 (t.byteAt (s.sp.toNat - 1)) (t.byteAt s.sp.toNat) = s.pc
          ∧ t.cycles = s.cycles + 1 + s.params.irqEntryCycles + s.params.wakeupCycles
          ∧ ∃ (u : State) (n : Fin 43), catchUpAll (s.cycles + 1) { s with cycles := s.cycles + 1 } = .ok u
            ∧ (recognise u).pending.getLsbD n.val = true
            ∧ (∀ m : Fin 43, m < n → (recognise u).pending.getLsbD m.val = false) ∧ t.pc.toNat = 2 * n.val)

/-- R271, R272, R275 and 10_state.md R33: what the fetch of a step stops with, in the order of R275. The order is
derived in R275, and no step without a program is the spec's decision D30. -/
def Obligations.FetchStops : Prop :=
  ∀ s : State, (s.hasProgram = false → step s = .refused .noProgram)
    ∧ (s.hasProgram = true → s.sleeping = false →
        (16384 ≤ s.pc.toNat → step s = .fault (.outOfRangeFlash s.pc.toNat))
        ∧ (∀ w, s.flashWord s.pc.toNat = .ok w → reservedWord w = true → step s = .fault (.unhandledOpcode w s.pc))
        ∧ (∀ w, s.flashWord s.pc.toNat = .ok w → is2Word w = true → s.pc.toNat = 16383 →
            step s = .fault (.outOfRangeFlash 16384)))

/-- R340 and 10_state.md R48: what a reset by the host leaves, whatever the unspecified registers and memories hold
(SP takes the parameter SP_RESET, log entry 2). R48's values are the spec's decisions D3 to D5. -/
def Obligations.ResetLeaves : Prop :=
  ∀ (regs : Vector Byte 32) (sram eeprom : Memory) (s t : State), t = hostReset regs sram eeprom s →
    t.pc = 0 ∧ (∀ f, t.flags.get f = false) ∧ t.sp = s.params.spReset ∧ t.cycles = 0 ∧ t.sleeping = false ∧ t.pending = 0
      ∧ t.insideInterrupt = false ∧ t.last = ⟨0, 0, 0, 0, 0, 0⟩ ∧ t.t3Triggered = false
      ∧ (∀ a, a < 0x100 → t.byteAt a = 0) ∧ (∀ a, 0x100 ≤ a → t.byteAt a = sram.read a)
      ∧ (∀ r : Reg, t.reg r = regs[r.val]) ∧ (∀ a, t.eeprom.read a = eeprom.read a)
      ∧ (∀ b, t.flashAt b = s.flashAt b) ∧ t.hasProgram = s.hasProgram

/-- The model's choices where R48 leaves the value open (log entries 1 to 5): registers, SRAM and EEPROM 0, SP 0x0AFF,
no program, so that State.reset has no step. -/
def Obligations.ModelResetChoices : Prop :=
  (∀ r : Reg, State.reset.reg r = 0) ∧ (∀ a, State.reset.byteAt a = 0) ∧ (∀ a, State.reset.eeprom.read a = 0)
    ∧ State.reset.sp = 0x0AFF ∧ (∀ b, State.reset.flashAt b = 0) ∧ step State.reset = .refused .noProgram
    ∧ (∀ image : List Byte, (loadProgram image State.reset).hasProgram = true
        ∧ ∀ b, b < 32768 → (loadProgram image State.reset).flashAt b = image.getD b 0)

/-- The invariant holds at reset. It rests on the model's reset values (log entries 1 to 5). -/
def Obligations.ResetHasInv : Prop := State.reset.inv = true

/-- Every step keeps the invariant: the memories canonical and inside their spaces (20_memory.md R60, R61, R64), no
timestamp in the future (10_state.md R34), only the four sources of R281 pending, EERE and EEPE 0 (20_memory.md R74),
PLOCK only while PLLE (R76), the counts of CYC in the range of R7. The bits of EECR and PLLCSR are the spec's decision
D37, the four vectors D36. -/
def Obligations.InvKeptByStep : Prop := ∀ s t : State, s.inv = true → step s = .next t → t.inv = true

/-- 20_memory.md R61, R91: no step writes flash. That none changes the parameters is the model's own (log entry 7),
that one leaves a loaded program loaded rests on the spec's decision D30 (10_state.md R33). -/
def Obligations.FlashNeverChanges : Prop :=
  ∀ s t : State, step s = .next t → t.flash = s.flash ∧ t.params = s.params ∧ t.hasProgram = true

/-- 10_state.md R28, R360, R361: an instruction charges the count of CYC for one of its cases; with counts in R7's
range that is 1 to 5, a step adds that and at most one interrupt entry's penalties, and a run (R347) without an early
return ends at or after its target, overshooting by at most one step, while an early return ends it before the step.
Without overrides the counts are R360's table; an override is the count of its case alone. The defaults are the spec's
decision D15 (log entry 12), the penalties open parameters (D14), the run's form D40; overrides as a list are the
model's own. -/
def Obligations.CyclesAdvance : Prop :=
  (∀ (i : Instr) (s t : State), exec i s = .next t → ∃ c ∈ cycCases i, t.cycles = s.cycles + s.params.cyc c)
    ∧ (∀ (i : Instr) (s t : State), s.cycOk = true → exec i s = .next t → s.cycles + 1 ≤ t.cycles ∧ t.cycles ≤ s.cycles + 5)
    ∧ (∀ s t : State, s.cycOk = true → step s = .next t → s.cycles + 1 ≤ t.cycles
        ∧ t.cycles ≤ s.cycles + 5 + s.params.irqEntryCycles + s.params.wakeupCycles)
    ∧ (∀ (flags : RunFlags) (early : Nat → State → Bool) (budget : Nat) (s t : State), s.cycOk = true → 0 < budget →
        flags.debug = false ∨ (∀ n u, early n u = false) → execute flags early budget s = .next t →
        s.cycles + budget ≤ t.cycles
          ∧ t.cycles ≤ s.cycles + budget + 4 + s.params.irqEntryCycles + s.params.wakeupCycles)
    ∧ (∀ (flags : RunFlags) (early : Nat → State → Bool) (budget : Nat) (s : State), 0 < budget → flags.debug = true →
        early budget (s.setHooks flags) = true →
        execute flags early budget s = .next { s.setHooks flags with hostLog := .breakpointCheck :: s.hostLog })
    ∧ (∀ p : Params, p.cycOverrides = [] →
        p.cyc (.brbs true) = 2 ∧ p.cyc (.brbs false) = 1 ∧ p.cyc (.brbc true) = 2 ∧ p.cyc (.brbc false) = 1
          ∧ (∀ n, n ≤ 2 → ∀ c ∈ [CycCase.cpse n, .sbrc n, .sbrs n, .sbic n, .sbis n], p.cyc c = 1 + n)
          ∧ (∀ c ∈ [CycCase.rjmp, .ijmp], p.cyc c = 2) ∧ p.cyc .jmp = 3 ∧ (∀ c ∈ [CycCase.rcall, .icall], p.cyc c = 4)
          ∧ (∀ c ∈ [CycCase.call, .ret, .reti], p.cyc c = 5)
          ∧ (∀ c ∈ [CycCase.ld, .ldd, .st, .std, .lds, .sts, .push, .pop, .sbi, .cbi, .adiw, .sbiw, .mul, .muls, .mulsu,
              .fmul, .fmuls, .fmulsu], p.cyc c = 2) ∧ p.cyc .lpm = 3
          ∧ ∀ c ∈ [CycCase.add, .adc, .sub, .subi, .sbc, .sbci, .cp, .cpc, .cpi, .neg, .inc, .dec, .com, .and, .andi, .or,
              .ori, .eor, .lsr, .ror, .asr, .swap, .bset, .bclr, .bst, .bld, .mov, .movw, .ldi, .ioIn, .ioOut, .nop, .sleep,
              .wdr, .brk], p.cyc c = 1)
    ∧ ∀ (p q : Params) (c d : CycCase) (n : Nat), q = { p with cycOverrides := (c, n) :: p.cycOverrides } →
        q.cyc d = if d = c then n else p.cyc d

/-! ## Frames over every instruction -/

/-- What no instruction, or only the named one, changes of the scheduler, the timestamps and the host's log
(10_state.md R29 to R35, 20_memory.md R74 to R81). The hooks' details are the spec's decision D37; the free-value
counter and the host log are the model's own (log entries 9, 10). -/
def Obligations.SystemFrame : Prop :=
  ∀ (i : Instr) (s t : State), exec i s = .next t →
    t.pending = s.pending ∧ t.hasProgram = s.hasProgram ∧ t.t3Triggered = s.t3Triggered ∧ t.params = s.params
      ∧ (∀ b, t.flashAt b = s.flashAt b) ∧ t.last.t3 = s.last.t3 ∧ t.last.t4 = s.last.t4
      ∧ (i ≠ .sleep → t.sleeping = s.sleeping) ∧ (i ≠ .reti → t.insideInterrupt = s.insideInterrupt)
      ∧ (storeTarget s i ≠ some aEECR → t.last.eewe = s.last.eewe)
      ∧ (storeTarget s i ≠ some aPLLCSR → t.last.pll = s.last.pll)
      ∧ (storeTarget s i ≠ some aADCSRA → t.last.adc = s.last.adc)
      ∧ (storeTarget s i ≠ some aTCNT0 → storeTarget s i ≠ some aTCCR0B → loadTarget s i ≠ some aTCNT0 →
          t.last.t0 = s.last.t0)
      ∧ (storeTarget s i ≠ some aSPDR → t.draws = s.draws)
      ∧ ((∀ a, storeTarget s i = some a → a ≠ aSPDR ∧ portAt a = none) →
          (s.params.debugHooks = true → callsOrReturns i = false ∧ storeTarget s i ≠ some aSPL
            ∧ storeTarget s i ≠ some aSPH) →
          t.hostLog = s.hostLog)

/-- 10_state.md R57: an instruction changes no flag outside its row of the table, unless it stores to SREG. The table
is the spec's derived summary of the instruction rules. -/
def Obligations.FlagFrame : Prop :=
  ∀ (i : Instr) (s t : State), exec i s = .next t → flagsKept (flagsWritten i s) s t

/-- An instruction changes no register but its destination, a pointer it updates, and one it stores to as a data
address (R359); and SP only by a stack operation or a store to SPL or SPH (10_state.md R27). -/
def Obligations.RegisterFrame : Prop :=
  ∀ (i : Instr) (s t : State), exec i s = .next t → regsKept (regsWritten i s) s t ∧ (¬ movesSp i s → t.sp = s.sp)

/-- An instruction changes no data byte but those it stores to, pushes to, or touches through a hook (20_memory.md
R66, R67, R93); and no EEPROM byte but the addressed one, by a store to EECR (R64). Which instructions reach which
space is the spec's general knowledge (R93). -/
def Obligations.MemoryFrame : Prop :=
  ∀ (i : Instr) (s t : State), exec i s = .next t →
    (∀ a, a ∉ bytesTouched i s → t.byteAt a = s.byteAt a)
      ∧ (∀ a, storeTarget s i ≠ some aEECR ∨ a ≠ s.eear → t.eeprom.read a = s.eeprom.read a)

/-! ## Arithmetic (spec/40_arithmetic.md) -/

/-- R130, R133, R134: ADD and ADC. The carry-in's part in R130 is the spec's general knowledge. -/
def Obligations.AddFamily : Prop :=
  (∀ (d r : Reg) (s : State), ∃ t, exec (.add d r) s = .next t ∧ addVerdict (s.reg d) (s.reg r) false (t.reg d) t.flags
      ∧ flagsKept [0, 1, 2, 3, 4, 5] s t ∧ onlyRegs [d] s t ∧ movedOn 1 .add 1 s t)
    ∧ ∀ (d r : Reg) (s : State), ∃ t, exec (.adc d r) s = .next t
      ∧ addVerdict (s.reg d) (s.reg r) s.flags.c (t.reg d) t.flags
      ∧ flagsKept [0, 1, 2, 3, 4, 5] s t ∧ onlyRegs [d] s t ∧ movedOn 1 .adc 1 s t

/-- R131, R135 to R138, R142: SUB, SUBI, SBC, SBCI (Z only ever cleared), NEG. That NEG is a member of the family is
the spec's general knowledge (R142). -/
def Obligations.SubtractFamily : Prop :=
  (∀ (d r : Reg) (s : State), ∃ t, exec (.sub d r) s = .next t
      ∧ subVerdict (s.reg d) (s.reg r) false true (t.reg d) t.flags
      ∧ flagsKept [0, 1, 2, 3, 4, 5] s t ∧ onlyRegs [d] s t ∧ movedOn 1 .sub 1 s t)
    ∧ (∀ (d : Reg) (k : Byte) (s : State), ∃ t, exec (.subi d k) s = .next t
      ∧ subVerdict (s.reg d) k false true (t.reg d) t.flags
      ∧ flagsKept [0, 1, 2, 3, 4, 5] s t ∧ onlyRegs [d] s t ∧ movedOn 1 .subi 1 s t)
    ∧ (∀ (d r : Reg) (s : State), ∃ t, exec (.sbc d r) s = .next t
      ∧ subVerdict (s.reg d) (s.reg r) s.flags.c s.flags.z (t.reg d) t.flags
      ∧ flagsKept [0, 1, 2, 3, 4, 5] s t ∧ onlyRegs [d] s t ∧ movedOn 1 .sbc 1 s t)
    ∧ (∀ (d : Reg) (k : Byte) (s : State), ∃ t, exec (.sbci d k) s = .next t
      ∧ subVerdict (s.reg d) k s.flags.c s.flags.z (t.reg d) t.flags
      ∧ flagsKept [0, 1, 2, 3, 4, 5] s t ∧ onlyRegs [d] s t ∧ movedOn 1 .sbci 1 s t)
    ∧ ∀ (d : Reg) (s : State), ∃ t, exec (.neg d) s = .next t ∧ subVerdict 0 (s.reg d) false true (t.reg d) t.flags
      ∧ flagsKept [0, 1, 2, 3, 4, 5] s t ∧ onlyRegs [d] s t ∧ movedOn 1 .neg 1 s t

/-- R131, R139 to R141: CP, CPC, CPI set the flags of the subtraction and write no register. -/
def Obligations.CompareFamily : Prop :=
  (∀ (d r : Reg) (s : State), ∃ t x, exec (.cp d r) s = .next t ∧ subVerdict (s.reg d) (s.reg r) false true x t.flags
      ∧ flagsKept [0, 1, 2, 3, 4, 5] s t ∧ onlyRegs [] s t ∧ movedOn 1 .cp 1 s t)
    ∧ (∀ (d r : Reg) (s : State), ∃ t x, exec (.cpc d r) s = .next t
      ∧ subVerdict (s.reg d) (s.reg r) s.flags.c s.flags.z x t.flags
      ∧ flagsKept [0, 1, 2, 3, 4, 5] s t ∧ onlyRegs [] s t ∧ movedOn 1 .cpc 1 s t)
    ∧ ∀ (d : Reg) (k : Byte) (s : State), ∃ t x, exec (.cpi d k) s = .next t
      ∧ subVerdict (s.reg d) k false true x t.flags
      ∧ flagsKept [0, 1, 2, 3, 4, 5] s t ∧ onlyRegs [] s t ∧ movedOn 1 .cpi 1 s t

/-- R143, R144: INC and DEC wrap, V marks the signed overflow, C and H are not written. Both rules are the spec's
general knowledge (D21). -/
def Obligations.IncDec : Prop :=
  (∀ (d : Reg) (s : State), ∃ t, exec (.inc d) s = .next t ∧ (t.reg d).toNat = ((s.reg d).toNat + 1) % 256
      ∧ t.flags.v = decide ((s.reg d).toNat = 127) ∧ t.flags.n = decide (128 ≤ (t.reg d).toNat)
      ∧ t.flags.z = decide ((s.reg d).toNat = 255) ∧ t.flags.s = (t.flags.n ^^ t.flags.v)
      ∧ flagsKept [1, 2, 3, 4] s t ∧ onlyRegs [d] s t ∧ movedOn 1 .inc 1 s t)
    ∧ ∀ (d : Reg) (s : State), ∃ t, exec (.dec d) s = .next t ∧ (t.reg d).toNat = ((s.reg d).toNat + 255) % 256
      ∧ t.flags.v = decide ((s.reg d).toNat = 128) ∧ t.flags.n = decide (128 ≤ (t.reg d).toNat)
      ∧ t.flags.z = decide ((s.reg d).toNat = 1) ∧ t.flags.s = (t.flags.n ^^ t.flags.v)
      ∧ flagsKept [1, 2, 3, 4] s t ∧ onlyRegs [d] s t ∧ movedOn 1 .dec 1 s t

/-- R132, R145, R146: ADIW and SBIW on a pair: C the unsigned verdict, V the signed one, S the sign of the exact
result. That H is not written is the spec's decision D20. -/
def Obligations.AddSubWord : Prop :=
  (∀ (d : Reg) (k : BitVec 6) (s : State), ∃ t, exec (.adiw d k) s = .next t
      ∧ (t.pair d).toNat = ((s.pair d).toNat + k.toNat) % 65536
      ∧ t.flags.c = decide (65535 < (s.pair d).toNat + k.toNat)
      ∧ t.flags.v = decide (32767 < (s.pair d).toInt + k.toNat) ∧ t.flags.n = decide (32768 ≤ (t.pair d).toNat)
      ∧ t.flags.z = decide ((t.pair d).toNat = 0) ∧ t.flags.s = decide ((s.pair d).toInt + k.toNat < 0)
      ∧ flagsKept [0, 1, 2, 3, 4] s t ∧ onlyRegs [d, d + 1] s t ∧ movedOn 1 .adiw 2 s t)
    ∧ ∀ (d : Reg) (k : BitVec 6) (s : State), ∃ t, exec (.sbiw d k) s = .next t
      ∧ ((t.pair d).toNat : Int) = ((s.pair d).toNat - k.toNat : Int) % 65536
      ∧ t.flags.c = decide ((s.pair d).toNat < k.toNat)
      ∧ t.flags.v = decide ((s.pair d).toInt - k.toNat < -32768) ∧ t.flags.n = decide (32768 ≤ (t.pair d).toNat)
      ∧ t.flags.z = decide ((t.pair d).toNat = 0) ∧ t.flags.s = decide ((s.pair d).toInt - k.toNat < 0)
      ∧ flagsKept [0, 1, 2, 3, 4] s t ∧ onlyRegs [d, d + 1] s t ∧ movedOn 1 .sbiw 2 s t

/-- R134, R140, R147: the carry chains. ADD then ADC adds two 16-bit numbers; CP then CPC compares them, C the
unsigned and S the signed order, Z equality. -/
def Obligations.CarryChains : Prop :=
  (∀ (dl dh rl rh : Reg) (s : State), dl ≠ dh → dl ≠ rh → ∃ t u, exec (.add dl rl) s = .next t
      ∧ exec (.adc dh rh) t = .next u
      ∧ (word16 (u.reg dh) (u.reg dl)).toNat
          = ((word16 (s.reg dh) (s.reg dl)).toNat + (word16 (s.reg rh) (s.reg rl)).toNat) % 65536
      ∧ u.flags.c = decide (65535 < (word16 (s.reg dh) (s.reg dl)).toNat + (word16 (s.reg rh) (s.reg rl)).toNat))
    ∧ ∀ (dl dh rl rh : Reg) (s : State), ∃ t u, exec (.cp dl rl) s = .next t ∧ exec (.cpc dh rh) t = .next u
      ∧ u.flags.c = decide ((word16 (s.reg dh) (s.reg dl)).toNat < (word16 (s.reg rh) (s.reg rl)).toNat)
      ∧ u.flags.z = decide (word16 (s.reg dh) (s.reg dl) = word16 (s.reg rh) (s.reg rl))
      ∧ u.flags.s = decide ((word16 (s.reg dh) (s.reg dl)).toInt < (word16 (s.reg rh) (s.reg rl)).toInt)

/-! ## Logic, shifts, bits (spec/41_logic_and_bit.md) -/

/-- R150 to R156: AND, ANDI, OR, ORI, EOR, COM, bit by bit; V cleared, N and Z from the result, C set by COM alone.
That N and Z come from the result is the spec's general knowledge (R150). -/
def Obligations.LogicFamily : Prop :=
  (∀ (d r : Reg) (s : State), ∃ t, exec (.and d r) s = .next t
      ∧ (∀ b : BitNo, (t.reg d).getLsbD b.val = ((s.reg d).getLsbD b.val && (s.reg r).getLsbD b.val))
      ∧ logicVerdict (t.reg d) t.flags ∧ flagsKept [1, 2, 3, 4] s t ∧ onlyRegs [d] s t ∧ movedOn 1 .and 1 s t)
    ∧ (∀ (d : Reg) (k : Byte) (s : State), ∃ t, exec (.andi d k) s = .next t
      ∧ (∀ b : BitNo, (t.reg d).getLsbD b.val = ((s.reg d).getLsbD b.val && k.getLsbD b.val))
      ∧ logicVerdict (t.reg d) t.flags ∧ flagsKept [1, 2, 3, 4] s t ∧ onlyRegs [d] s t ∧ movedOn 1 .andi 1 s t)
    ∧ (∀ (d r : Reg) (s : State), ∃ t, exec (.or d r) s = .next t
      ∧ (∀ b : BitNo, (t.reg d).getLsbD b.val = ((s.reg d).getLsbD b.val || (s.reg r).getLsbD b.val))
      ∧ logicVerdict (t.reg d) t.flags ∧ flagsKept [1, 2, 3, 4] s t ∧ onlyRegs [d] s t ∧ movedOn 1 .or 1 s t)
    ∧ (∀ (d : Reg) (k : Byte) (s : State), ∃ t, exec (.ori d k) s = .next t
      ∧ (∀ b : BitNo, (t.reg d).getLsbD b.val = ((s.reg d).getLsbD b.val || k.getLsbD b.val))
      ∧ logicVerdict (t.reg d) t.flags ∧ flagsKept [1, 2, 3, 4] s t ∧ onlyRegs [d] s t ∧ movedOn 1 .ori 1 s t)
    ∧ (∀ (d r : Reg) (s : State), ∃ t, exec (.eor d r) s = .next t
      ∧ (∀ b : BitNo, (t.reg d).getLsbD b.val = ((s.reg d).getLsbD b.val ^^ (s.reg r).getLsbD b.val))
      ∧ logicVerdict (t.reg d) t.flags ∧ flagsKept [1, 2, 3, 4] s t ∧ onlyRegs [d] s t ∧ movedOn 1 .eor 1 s t)
    ∧ ∀ (d : Reg) (s : State), ∃ t, exec (.com d) s = .next t ∧ (t.reg d).toNat = 255 - (s.reg d).toNat
      ∧ logicVerdict (t.reg d) t.flags ∧ t.flags.c = true
      ∧ flagsKept [0, 1, 2, 3, 4] s t ∧ onlyRegs [d] s t ∧ movedOn 1 .com 1 s t

/-- R157 to R160: LSR halves, ROR brings the old C into bit 7, ASR halves the signed value; C is the bit shifted out.
The family is the spec's general knowledge (R157, D21). -/
def Obligations.ShiftFamily : Prop :=
  (∀ (d : Reg) (s : State), ∃ t, exec (.lsr d) s = .next t ∧ (t.reg d).toNat = (s.reg d).toNat / 2
      ∧ shiftVerdict (t.reg d) (decide ((s.reg d).toNat % 2 = 1)) t.flags
      ∧ flagsKept [0, 1, 2, 3, 4] s t ∧ onlyRegs [d] s t ∧ movedOn 1 .lsr 1 s t)
    ∧ (∀ (d : Reg) (s : State), ∃ t, exec (.ror d) s = .next t
      ∧ (t.reg d).toNat = (s.reg d).toNat / 2 + 128 * s.flags.c.toNat
      ∧ shiftVerdict (t.reg d) (decide ((s.reg d).toNat % 2 = 1)) t.flags
      ∧ flagsKept [0, 1, 2, 3, 4] s t ∧ onlyRegs [d] s t ∧ movedOn 1 .ror 1 s t)
    ∧ ∀ (d : Reg) (s : State), ∃ t, exec (.asr d) s = .next t ∧ (t.reg d).toInt = (s.reg d).toInt / 2
      ∧ shiftVerdict (t.reg d) (decide ((s.reg d).toNat % 2 = 1)) t.flags
      ∧ flagsKept [0, 1, 2, 3, 4] s t ∧ onlyRegs [d] s t ∧ movedOn 1 .asr 1 s t

/-- R161 to R165: SWAP, BSET, BCLR, BST, BLD. -/
def Obligations.BitFamily : Prop :=
  (∀ (d : Reg) (s : State), ∃ t, exec (.swap d) s = .next t
      ∧ (t.reg d).toNat = (s.reg d).toNat % 16 * 16 + (s.reg d).toNat / 16
      ∧ t.flags = s.flags ∧ onlyRegs [d] s t ∧ movedOn 1 .swap 1 s t)
    ∧ (∀ (f : BitNo) (s : State), ∃ t, exec (.bset f) s = .next t ∧ t.flags.get f = true ∧ flagsKept [f] s t
      ∧ onlyRegs [] s t ∧ movedOn 1 .bset 1 s t)
    ∧ (∀ (f : BitNo) (s : State), ∃ t, exec (.bclr f) s = .next t ∧ t.flags.get f = false ∧ flagsKept [f] s t
      ∧ onlyRegs [] s t ∧ movedOn 1 .bclr 1 s t)
    ∧ (∀ (d : Reg) (b : BitNo) (s : State), ∃ t, exec (.bst d b) s = .next t
      ∧ t.flags.t = (s.reg d).getLsbD b.val ∧ flagsKept [6] s t ∧ onlyRegs [] s t ∧ movedOn 1 .bst 1 s t)
    ∧ ∀ (d : Reg) (b : BitNo) (s : State), ∃ t, exec (.bld d b) s = .next t
      ∧ (∀ k : BitNo, (t.reg d).getLsbD k.val = if k = b then s.flags.t else (s.reg d).getLsbD k.val)
      ∧ t.flags = s.flags ∧ onlyRegs [d] s t ∧ movedOn 1 .bld 1 s t

/-! ## Multiplies (spec/42_multiply.md) -/

/-- R170 to R173: MUL, MULS, MULSU leave the exact product in R1:R0, C its bit 15, Z that it is 0, no other flag.
Reading C as bit 15 of the product pattern is the spec's decision D19. -/
def Obligations.PlainMultiplies : Prop :=
  (∀ (d r : Reg) (s : State), ∃ t, exec (.mul d r) s = .next t ∧ (t.pair 0).toNat = (s.reg d).toNat * (s.reg r).toNat
      ∧ t.flags.c = decide (32768 ≤ (t.pair 0).toNat) ∧ t.flags.z = decide ((t.pair 0).toNat = 0)
      ∧ flagsKept [0, 1] s t ∧ onlyRegs [0, 1] s t ∧ movedOn 1 .mul 2 s t)
    ∧ (∀ (d r : Reg) (s : State), ∃ t, exec (.muls d r) s = .next t ∧ (t.pair 0).toInt = (s.reg d).toInt * (s.reg r).toInt
      ∧ t.flags.c = decide (32768 ≤ (t.pair 0).toNat) ∧ t.flags.z = decide ((t.pair 0).toNat = 0)
      ∧ flagsKept [0, 1] s t ∧ onlyRegs [0, 1] s t ∧ movedOn 1 .muls 2 s t)
    ∧ ∀ (d r : Reg) (s : State), ∃ t, exec (.mulsu d r) s = .next t ∧ (t.pair 0).toInt = (s.reg d).toInt * (s.reg r).toNat
      ∧ t.flags.c = decide (32768 ≤ (t.pair 0).toNat) ∧ t.flags.z = decide ((t.pair 0).toNat = 0)
      ∧ flagsKept [0, 1] s t ∧ onlyRegs [0, 1] s t ∧ movedOn 1 .mulsu 2 s t

/-- R170, R174 to R176: FMUL, FMULS, FMULSU leave twice the product modulo 2^16, C bit 15 of the product before the
shift, Z that the value written is 0. Reading C as bit 15 of the product pattern is the spec's decision D19. -/
def Obligations.FractionalMultiplies : Prop :=
  (∀ (d r : Reg) (s : State), ∃ t, exec (.fmul d r) s = .next t
      ∧ (t.pair 0).toNat = 2 * ((s.reg d).toNat * (s.reg r).toNat) % 65536
      ∧ t.flags.c = decide (32768 ≤ (s.reg d).toNat * (s.reg r).toNat) ∧ t.flags.z = decide ((t.pair 0).toNat = 0)
      ∧ flagsKept [0, 1] s t ∧ onlyRegs [0, 1] s t ∧ movedOn 1 .fmul 2 s t)
    ∧ (∀ (d r : Reg) (s : State), ∃ t, exec (.fmuls d r) s = .next t
      ∧ ((t.pair 0).toNat : Int) = 2 * ((s.reg d).toInt * (s.reg r).toInt) % 65536
      ∧ t.flags.c = decide ((s.reg d).toInt * (s.reg r).toInt < 0) ∧ t.flags.z = decide ((t.pair 0).toNat = 0)
      ∧ flagsKept [0, 1] s t ∧ onlyRegs [0, 1] s t ∧ movedOn 1 .fmuls 2 s t)
    ∧ ∀ (d r : Reg) (s : State), ∃ t, exec (.fmulsu d r) s = .next t
      ∧ ((t.pair 0).toNat : Int) = 2 * ((s.reg d).toInt * (s.reg r).toNat) % 65536
      ∧ t.flags.c = decide ((s.reg d).toInt * (s.reg r).toNat < 0) ∧ t.flags.z = decide ((t.pair 0).toNat = 0)
      ∧ flagsKept [0, 1] s t ∧ onlyRegs [0, 1] s t ∧ movedOn 1 .fmulsu 2 s t

/-! ## Control flow (spec/43_branch_skip.md, spec/44_call_return_stack.md) -/

/-- R180 to R182: RJMP, IJMP, JMP. Z used whole is the spec's decision D34, JMP's fault D35. -/
def Obligations.Jumps : Prop :=
  (∀ (k : BitVec 12) (s : State), ∃ t, exec (.rjmp k) s = .next t
      ∧ (t.pc.toNat : Int) = (s.pc.toNat + 1 + k.toInt) % 65536 ∧ charged .rjmp 2 s t
      ∧ t.flags = s.flags ∧ onlyRegs [] s t)
    ∧ (∀ s : State, ∃ t, exec .ijmp s = .next t ∧ t.pc = word16 (s.reg 31) (s.reg 30) ∧ charged .ijmp 2 s t
      ∧ t.flags = s.flags ∧ onlyRegs [] s t)
    ∧ (∀ (k : BitVec 22) (s : State), k.toNat < 65536 → ∃ t, exec (.jmp k) s = .next t ∧ t.pc.toNat = k.toNat
      ∧ charged .jmp 3 s t ∧ t.flags = s.flags ∧ onlyRegs [] s t)
    ∧ ∀ (k : BitVec 22) (s : State), 65536 ≤ k.toNat → exec (.jmp k) s = .fault (.outOfRangeFlash k.toNat)

/-- R183, R184: BRBS and BRBC: CYC of the taken branch (default 2) to pc + 1 + k modulo 2^16, else CYC of one not
taken (default 1) to pc + 1. The counts 2 and 1 are the source's (R183, R360); that the counts of branches may be
overridden like every other of CYC is the model's choice (log entry 12). -/
def Obligations.Branches : Prop :=
  (∀ (f : BitNo) (k : BitVec 7) (s : State), ∃ t, exec (.brbs f k) s = .next t ∧ t.flags = s.flags ∧ onlyRegs [] s t
      ∧ if s.flags.get f = true then
          (t.pc.toNat : Int) = (s.pc.toNat + 1 + k.toInt) % 65536 ∧ charged (.brbs true) 2 s t
        else movedOn 1 (.brbs false) 1 s t)
    ∧ ∀ (f : BitNo) (k : BitVec 7) (s : State), ∃ t, exec (.brbc f k) s = .next t ∧ t.flags = s.flags ∧ onlyRegs [] s t
      ∧ if s.flags.get f = false then
          (t.pc.toNat : Int) = (s.pc.toNat + 1 + k.toInt) % 65536 ∧ charged (.brbc true) 2 s t
        else movedOn 1 (.brbc false) 1 s t

/-- R185 to R188: CPSE, SBRC, SBRS take one word, or two or three when the skip is taken, and CYC of it (by default as
many cycles); a taken skip whose next word is outside flash faults. Fetching the next word only when the skip is taken
is the spec's decision D38. -/
def Obligations.RegisterSkips : Prop :=
  (∀ (d r : Reg) (s : State) (c : Bool), c = decide (s.reg d = s.reg r) →
      ((c = true → s.pc.toNat + 1 < 16384) → ∃ t, exec (.cpse d r) s = .next t ∧ t.flags = s.flags ∧ onlyRegs [] s t
        ∧ movedOn (skipWords c s) (.cpse (skipWords c s - 1)) (skipWords c s) s t)
      ∧ (c = true → 16384 ≤ s.pc.toNat + 1 → exec (.cpse d r) s = .fault (.outOfRangeFlash (s.pc.toNat + 1))))
    ∧ (∀ (r : Reg) (b : BitNo) (s : State) (c : Bool), c = !(s.reg r).getLsbD b.val →
      ((c = true → s.pc.toNat + 1 < 16384) → ∃ t, exec (.sbrc r b) s = .next t ∧ t.flags = s.flags ∧ onlyRegs [] s t
        ∧ movedOn (skipWords c s) (.sbrc (skipWords c s - 1)) (skipWords c s) s t)
      ∧ (c = true → 16384 ≤ s.pc.toNat + 1 → exec (.sbrc r b) s = .fault (.outOfRangeFlash (s.pc.toNat + 1))))
    ∧ ∀ (r : Reg) (b : BitNo) (s : State) (c : Bool), c = (s.reg r).getLsbD b.val →
      ((c = true → s.pc.toNat + 1 < 16384) → ∃ t, exec (.sbrs r b) s = .next t ∧ t.flags = s.flags ∧ onlyRegs [] s t
        ∧ movedOn (skipWords c s) (.sbrs (skipWords c s - 1)) (skipWords c s) s t)
      ∧ (c = true → 16384 ≤ s.pc.toNat + 1 → exec (.sbrs r b) s = .fault (.outOfRangeFlash (s.pc.toNat + 1)))

/-- R185, R189, R190: SBIC and SBIS read the I/O byte with its hook (`m` is the state the read leaves) and skip on a
bit of the byte read. Fetching the next word only when the skip is taken is the spec's decision D38. -/
def Obligations.IoSkips : Prop :=
  (∀ (a : BitVec 5) (b : BitNo) (s m : State) (v : Byte), memRead (ioAddress5 a) s = .ok (v, m) →
      (v.getLsbD b.val = false → s.pc.toNat + 1 < 16384) →
      ∃ t, exec (.sbic a b) s = .next t ∧ t.flags = s.flags ∧ onlyRegs [] m t
        ∧ movedOn (skipWords (!v.getLsbD b.val) s) (.sbic (skipWords (!v.getLsbD b.val) s - 1))
          (skipWords (!v.getLsbD b.val) s) s t)
    ∧ (∀ (a : BitVec 5) (b : BitNo) (s m : State) (v : Byte), memRead (ioAddress5 a) s = .ok (v, m) →
      (v.getLsbD b.val = true → s.pc.toNat + 1 < 16384) →
      ∃ t, exec (.sbis a b) s = .next t ∧ t.flags = s.flags ∧ onlyRegs [] m t
        ∧ movedOn (skipWords (v.getLsbD b.val) s) (.sbis (skipWords (v.getLsbD b.val) s - 1))
          (skipWords (v.getLsbD b.val) s) s t)
    ∧ (∀ (a : BitVec 5) (s : State), ∃ v m, memRead (ioAddress5 a) s = .ok (v, m))
    ∧ ∀ (a : BitVec 5) (b : BitNo) (s m : State) (v : Byte), memRead (ioAddress5 a) s = .ok (v, m) →
      16384 ≤ s.pc.toNat + 1 →
      (v.getLsbD b.val = false → exec (.sbic a b) s = .fault (.outOfRangeFlash (s.pc.toNat + 1)))
      ∧ (v.getLsbD b.val = true → exec (.sbis a b) s = .fault (.outOfRangeFlash (s.pc.toNat + 1)))

/-- R195, R197 to R199: RCALL, ICALL, CALL push the return address, its low byte at SP and its high byte at SP - 1,
and go to the target; the debugger's call-stack hook is notified (R305); nothing else changes. The byte layout is the
spec's decision D7, the window D8, the whole Z D34, CALL's fault D35. -/
def Obligations.Calls : Prop :=
  (∀ (k : BitVec 12) (s : State), 0x101 ≤ s.sp.toNat → s.sp.toNat < 0xB00 → ∃ t, exec (.rcall k) s = .next t
      ∧ (t.pc.toNat : Int) = (s.pc.toNat + 1 + k.toInt) % 65536 ∧ charged .rcall 4 s t
      ∧ word16 (t.byteAt (s.sp.toNat - 1)) (t.byteAt s.sp.toNat) = s.pc + 1 ∧ t.sp = s.sp - 2
      ∧ bytesKept [s.sp.toNat, s.sp.toNat - 1] s t ∧ regsKept [] s t ∧ t.flags = s.flags ∧ schedulerKept s t
      ∧ t.hostLog = notified .callStackPush s)
    ∧ (∀ s : State, 0x101 ≤ s.sp.toNat → s.sp.toNat < 0xB00 → ∃ t, exec .icall s = .next t
      ∧ t.pc = word16 (s.reg 31) (s.reg 30) ∧ charged .icall 4 s t
      ∧ word16 (t.byteAt (s.sp.toNat - 1)) (t.byteAt s.sp.toNat) = s.pc + 1 ∧ t.sp = s.sp - 2
      ∧ bytesKept [s.sp.toNat, s.sp.toNat - 1] s t ∧ regsKept [] s t ∧ t.flags = s.flags ∧ schedulerKept s t
      ∧ t.hostLog = notified .callStackPush s)
    ∧ ∀ (k : BitVec 22) (s : State), k.toNat < 65536 → 0x101 ≤ s.sp.toNat → s.sp.toNat < 0xB00 →
      ∃ t, exec (.call k) s = .next t ∧ t.pc.toNat = k.toNat ∧ charged .call 5 s t
      ∧ word16 (t.byteAt (s.sp.toNat - 1)) (t.byteAt s.sp.toNat) = s.pc + 2 ∧ t.sp = s.sp - 2
      ∧ bytesKept [s.sp.toNat, s.sp.toNat - 1] s t ∧ regsKept [] s t ∧ t.flags = s.flags ∧ schedulerKept s t
      ∧ t.hostLog = notified .callStackPush s

/-- R196, R200, R201: RET and RETI pop the pc, high byte at SP + 1; RETI also sets I and clears the re-entrancy flag.
The byte layout is the spec's decision D7, the window D8. -/
def Obligations.Returns : Prop :=
  (∀ s : State, 0xFF ≤ s.sp.toNat → s.sp.toNat ≤ 0xAFD → ∃ t, exec .ret s = .next t
      ∧ t.pc = word16 (s.byteAt (s.sp.toNat + 1)) (s.byteAt (s.sp.toNat + 2)) ∧ t.sp = s.sp + 2
      ∧ charged .ret 5 s t ∧ t.flags = s.flags ∧ regsKept [] s t ∧ memKept s t ∧ schedulerKept s t
      ∧ t.hostLog = notified .callStackPop s)
    ∧ ∀ s : State, 0xFF ≤ s.sp.toNat → s.sp.toNat ≤ 0xAFD → ∃ t, exec .reti s = .next t
      ∧ t.pc = word16 (s.byteAt (s.sp.toNat + 1)) (s.byteAt (s.sp.toNat + 2)) ∧ t.sp = s.sp + 2
      ∧ charged .reti 5 s t ∧ t.flags.i = true ∧ flagsKept [7] s t ∧ regsKept [] s t ∧ memKept s t
      ∧ t.insideInterrupt = false ∧ t.sleeping = s.sleeping ∧ t.pending = s.pending ∧ t.last = s.last
      ∧ t.t3Triggered = s.t3Triggered ∧ t.hasProgram = s.hasProgram ∧ t.params = s.params ∧ t.draws = s.draws
      ∧ t.hostLog = notified .callStackPop s

/-- R202, R203: PUSH stores at SP and decrements, POP increments and loads. The window is the spec's decision D8. -/
def Obligations.PushAndPop : Prop :=
  (∀ (r : Reg) (s : State), 0x100 ≤ s.sp.toNat → s.sp.toNat < 0xB00 → ∃ t, exec (.push r) s = .next t
      ∧ t.byteAt s.sp.toNat = s.reg r ∧ t.sp = s.sp - 1 ∧ bytesKept [s.sp.toNat] s t
      ∧ regsKept [] s t ∧ t.flags = s.flags ∧ systemKept s t ∧ movedOn 1 .push 2 s t)
    ∧ ∀ (d : Reg) (s : State), 0xFF ≤ s.sp.toNat → s.sp.toNat < 0xAFF → ∃ t, exec (.pop d) s = .next t
      ∧ t.reg d = s.byteAt (s.sp.toNat + 1) ∧ t.sp = s.sp + 1
      ∧ regsKept [d] s t ∧ memKept s t ∧ t.flags = s.flags ∧ systemKept s t ∧ movedOn 1 .pop 2 s t

/-- R204, R195, R196, R199, R202, R203, R275: a stack access outside [0x0100, 0x0B00) faults with the first address
outside, SP arithmetic modulo 2^16; a CALL target beyond 16 bits faults before that. The window is the spec's decision
D8, CALL's fault D35. -/
def Obligations.StackFaults : Prop :=
  ∀ s : State,
    (s.sp.toNat < 0x100 ∨ 0xB00 ≤ s.sp.toNat →
      (∀ r, exec (.push r) s = .fault (.outOfRangeStack s.sp.toNat))
        ∧ (∀ k, exec (.rcall k) s = .fault (.outOfRangeStack s.sp.toNat))
        ∧ exec .icall s = .fault (.outOfRangeStack s.sp.toNat)
        ∧ ∀ k : BitVec 22, k.toNat < 65536 → exec (.call k) s = .fault (.outOfRangeStack s.sp.toNat))
    ∧ (s.sp.toNat = 0x100 → (∀ k, exec (.rcall k) s = .fault (.outOfRangeStack 0xFF))
        ∧ exec .icall s = .fault (.outOfRangeStack 0xFF)
        ∧ ∀ k : BitVec 22, k.toNat < 65536 → exec (.call k) s = .fault (.outOfRangeStack 0xFF))
    ∧ (∀ k : BitVec 22, 65536 ≤ k.toNat → exec (.call k) s = .fault (.outOfRangeFlash k.toNat))
    ∧ (s.sp.toNat < 0xFF ∨ 0xAFF ≤ s.sp.toNat →
      (∀ d, exec (.pop d) s = .fault (.outOfRangeStack ((s.sp.toNat + 1) % 65536)))
        ∧ exec .ret s = .fault (.outOfRangeStack ((s.sp.toNat + 1) % 65536))
        ∧ exec .reti s = .fault (.outOfRangeStack ((s.sp.toNat + 1) % 65536)))
    ∧ (s.sp.toNat = 0xAFE → exec .ret s = .fault (.outOfRangeStack 0xB00)
        ∧ exec .reti s = .fault (.outOfRangeStack 0xB00))

/-- R196, R203, 60_exceptions.md R289: POP undoes PUSH, RET undoes CALL, and RETI undoes the entry into an interrupt.
That the entry clears I and sets the re-entrancy flag is the spec's decision D12. -/
def Obligations.StackRoundTrips : Prop :=
  (∀ (r d : Reg) (s : State), 0x100 ≤ s.sp.toNat → s.sp.toNat < 0xB00 → ∃ t u, exec (.push r) s = .next t
      ∧ exec (.pop d) t = .next u ∧ u.reg d = s.reg r ∧ u.sp = s.sp ∧ regsKept [d] s u
      ∧ u.cycles = s.cycles + s.params.cyc .push + s.params.cyc .pop)
    ∧ (∀ (k : BitVec 22) (s : State), k.toNat < 65536 → 0x101 ≤ s.sp.toNat → s.sp.toNat < 0xB00 →
      ∃ t u, exec (.call k) s = .next t ∧ exec .ret t = .next u ∧ u.pc = s.pc + 2 ∧ u.sp = s.sp ∧ u.flags = s.flags
        ∧ regsKept [] s u)
    ∧ ∀ s t : State, s.flags.i = true → s.pending ≠ 0 → dispatch s = .ok t → ∃ u, exec .reti t = .next u
      ∧ u.pc = s.pc ∧ u.sp = s.sp ∧ u.flags = s.flags ∧ u.gpr = s.gpr ∧ u.insideInterrupt = false

/-! ## Data transfer (spec/45_data_transfer.md, spec/20_memory.md) -/

/-- R210 to R212: MOV, MOVW, LDI. -/
def Obligations.Moves : Prop :=
  (∀ (d r : Reg) (s : State), ∃ t, exec (.mov d r) s = .next t ∧ t.reg d = s.reg r ∧ t.flags = s.flags
      ∧ onlyRegs [d] s t ∧ movedOn 1 .mov 1 s t)
    ∧ (∀ (d r : Reg) (s : State), ∃ t, exec (.movw d r) s = .next t ∧ t.reg d = s.reg r ∧ t.reg (d + 1) = s.reg (r + 1)
      ∧ t.flags = s.flags ∧ onlyRegs [d, d + 1] s t ∧ movedOn 1 .movw 1 s t)
    ∧ ∀ (d : Reg) (k : Byte) (s : State), ∃ t, exec (.ldi d k) s = .next t ∧ t.reg d = k ∧ t.flags = s.flags
      ∧ onlyRegs [d] s t ∧ movedOn 1 .ldi 1 s t

/-- R213, R214, R219, R222, R239: LDS, LD X, LDD Y+q, LDD Z+q: where the read is answered, its byte goes to Rd and,
beside what the read's hook changed (`m` is the state it leaves), nothing else changes. Addresses modulo 2^16 with no
RAMP registers are the spec's decision D34. -/
def Obligations.LoadsWithoutUpdate : Prop :=
  (∀ (d : Reg) (a : Word) (s : State), readOk a.toNat s → ∃ v m t, memRead a.toNat s = .ok (v, m)
      ∧ exec (.lds d a) s = .next t ∧ t.reg d = v ∧ t.flags = s.flags ∧ onlyRegs [d] m t ∧ movedOn 2 .lds 2 s t)
    ∧ (∀ (d : Reg) (s : State), readOk (s.ptr .x).toNat s → ∃ v m t, memRead (s.ptr .x).toNat s = .ok (v, m)
      ∧ exec (.ldX d) s = .next t ∧ t.reg d = v ∧ t.flags = s.flags ∧ onlyRegs [d] m t ∧ movedOn 1 .ld 2 s t)
    ∧ (∀ (d : Reg) (q : BitVec 6) (s : State), readOk (((s.ptr .y).toNat + q.toNat) % 65536) s →
      ∃ v m t, memRead (((s.ptr .y).toNat + q.toNat) % 65536) s = .ok (v, m)
        ∧ exec (.lddY d q) s = .next t ∧ t.reg d = v ∧ t.flags = s.flags ∧ onlyRegs [d] m t ∧ movedOn 1 .ldd 2 s t)
    ∧ ∀ (d : Reg) (q : BitVec 6) (s : State), readOk (((s.ptr .z).toNat + q.toNat) % 65536) s →
      ∃ v m t, memRead (((s.ptr .z).toNat + q.toNat) % 65536) s = .ok (v, m)
        ∧ exec (.lddZ d q) s = .next t ∧ t.reg d = v ∧ t.flags = s.flags ∧ onlyRegs [d] m t ∧ movedOn 1 .ldd 2 s t

/-- R215 to R218, R220, R221, R239: the post-increment and pre-decrement loads also write the pointer back, whole,
from the value it had at the start. Pointers modulo 2^16 with no RAMP registers are the spec's decision D34. -/
def Obligations.LoadsWithUpdate : Prop :=
  ∀ (d : Reg) (s : State),
    (∀ i p, (i = Instr.ldXInc d ∧ p = Ptr.x) ∨ (i = Instr.ldYInc d ∧ p = Ptr.y) ∨ (i = Instr.ldZInc d ∧ p = Ptr.z) →
      d ∉ Ptr.regs p → readOk (s.ptr p).toNat s → ∃ v m t, memRead (s.ptr p).toNat s = .ok (v, m)
        ∧ exec i s = .next t ∧ t.reg d = v ∧ t.ptr p = s.ptr p + 1 ∧ t.flags = s.flags
        ∧ onlyRegs (d :: Ptr.regs p) m t ∧ movedOn 1 .ld 2 s t)
    ∧ ∀ i p, (i = Instr.ldXDec d ∧ p = Ptr.x) ∨ (i = Instr.ldYDec d ∧ p = Ptr.y) ∨ (i = Instr.ldZDec d ∧ p = Ptr.z) →
      d ∉ Ptr.regs p → readOk (s.ptr p - 1).toNat s → ∃ v m t, memRead (s.ptr p - 1).toNat s = .ok (v, m)
        ∧ exec i s = .next t ∧ t.reg d = v ∧ t.ptr p = s.ptr p - 1 ∧ t.flags = s.flags
        ∧ onlyRegs (d :: Ptr.regs p) m t ∧ movedOn 1 .ld 2 s t

/-- R223, R224, R229, R232, R239: STS, ST X, STD Y+q, STD Z+q: where the write is answered, it is the whole effect
(`m` is the state it leaves) but for pc and cycles. Addresses modulo 2^16 with no RAMP registers are the spec's
decision D34. -/
def Obligations.StoresWithoutUpdate : Prop :=
  (∀ (a : Word) (r : Reg) (s : State), writeOk a.toNat (s.reg r) s → ∃ m t, memWrite a.toNat (s.reg r) s = .ok m
      ∧ exec (.sts a r) s = .next t ∧ t.flags = m.flags ∧ onlyRegs [] m t ∧ movedOn 2 .sts 2 s t)
    ∧ (∀ (r : Reg) (s : State), writeOk (s.ptr .x).toNat (s.reg r) s → ∃ m t,
      memWrite (s.ptr .x).toNat (s.reg r) s = .ok m
        ∧ exec (.stX r) s = .next t ∧ t.flags = m.flags ∧ onlyRegs [] m t ∧ movedOn 1 .st 2 s t)
    ∧ (∀ (r : Reg) (q : BitVec 6) (s : State), writeOk (((s.ptr .y).toNat + q.toNat) % 65536) (s.reg r) s → ∃ m t,
      memWrite (((s.ptr .y).toNat + q.toNat) % 65536) (s.reg r) s = .ok m
        ∧ exec (.stdY q r) s = .next t ∧ t.flags = m.flags ∧ onlyRegs [] m t ∧ movedOn 1 .std 2 s t)
    ∧ ∀ (r : Reg) (q : BitVec 6) (s : State), writeOk (((s.ptr .z).toNat + q.toNat) % 65536) (s.reg r) s → ∃ m t,
      memWrite (((s.ptr .z).toNat + q.toNat) % 65536) (s.reg r) s = .ok m
        ∧ exec (.stdZ q r) s = .next t ∧ t.flags = m.flags ∧ onlyRegs [] m t ∧ movedOn 1 .std 2 s t

/-- R225 to R228, R230, R231, R238, R239: the post-increment and pre-decrement stores write the pointer back after the
store, from the value it had at the start, so that a store into the pointer itself is overwritten. Pointers modulo
2^16 with no RAMP registers are the spec's decision D34. -/
def Obligations.StoresWithUpdate : Prop :=
  ∀ (r : Reg) (s : State),
    (∀ i p, (i = Instr.stXInc r ∧ p = Ptr.x) ∨ (i = Instr.stYInc r ∧ p = Ptr.y) ∨ (i = Instr.stZInc r ∧ p = Ptr.z) →
      r ∉ Ptr.regs p → writeOk (s.ptr p).toNat (s.reg r) s → ∃ m t, memWrite (s.ptr p).toNat (s.reg r) s = .ok m
        ∧ exec i s = .next t ∧ t.ptr p = s.ptr p + 1 ∧ t.flags = m.flags
        ∧ onlyRegs (Ptr.regs p) m t ∧ movedOn 1 .st 2 s t)
    ∧ ∀ i p, (i = Instr.stXDec r ∧ p = Ptr.x) ∨ (i = Instr.stYDec r ∧ p = Ptr.y) ∨ (i = Instr.stZDec r ∧ p = Ptr.z) →
      r ∉ Ptr.regs p → writeOk (s.ptr p - 1).toNat (s.reg r) s → ∃ m t,
        memWrite (s.ptr p - 1).toNat (s.reg r) s = .ok m
        ∧ exec i s = .next t ∧ t.ptr p = s.ptr p - 1 ∧ t.flags = m.flags
        ∧ onlyRegs (Ptr.regs p) m t ∧ movedOn 1 .st 2 s t

/-- 20_memory.md R65, R239, 60_exceptions.md R271: a load or store whose address is 2816 or more faults with that
address, unless its form is refused. The check is the spec's decision D29. -/
def Obligations.DataFaults : Prop :=
  ∀ (i : Instr) (s : State) (a : Nat), loadTarget s i = some a ∨ storeTarget s i = some a → 2816 ≤ a →
    overlapRefused i = false → exec i s = .fault (.outOfRangeData a)

/-- R238: the overlapping forms are refused, whatever the state. The refusal is the spec's decision D33 (U3). -/
def Obligations.OverlapsRefused : Prop :=
  ∀ (i : Instr) (s : State), overlapRefused i = true → exec i s = .refused .pointerOverlap

/-- R233 to R235: the three LPM forms read the flash byte at Z; from 32768 on they fault. -/
def Obligations.LoadsFromFlash : Prop :=
  (∀ s : State, (s.ptr .z).toNat < 32768 → ∃ t, exec .lpm s = .next t ∧ t.reg 0 = s.flashAt (s.ptr .z).toNat
      ∧ t.flags = s.flags ∧ onlyRegs [0] s t ∧ movedOn 1 .lpm 3 s t)
    ∧ (∀ (d : Reg) (s : State), (s.ptr .z).toNat < 32768 → ∃ t, exec (.lpmZ d) s = .next t
      ∧ t.reg d = s.flashAt (s.ptr .z).toNat ∧ t.flags = s.flags ∧ onlyRegs [d] s t ∧ movedOn 1 .lpm 3 s t)
    ∧ (∀ (d : Reg) (s : State), (s.ptr .z).toNat < 32768 → d ≠ 30 → d ≠ 31 → ∃ t, exec (.lpmZInc d) s = .next t
      ∧ t.reg d = s.flashAt (s.ptr .z).toNat ∧ t.ptr .z = s.ptr .z + 1 ∧ t.flags = s.flags
      ∧ onlyRegs [d, 30, 31] s t ∧ movedOn 1 .lpm 3 s t)
    ∧ ∀ (d : Reg) (s : State), 32768 ≤ (s.ptr .z).toNat → exec .lpm s = .fault (.outOfRangeFlash (s.ptr .z).toNat)
      ∧ exec (.lpmZ d) s = .fault (.outOfRangeFlash (s.ptr .z).toNat)
      ∧ (d ≠ 30 → d ≠ 31 → exec (.lpmZInc d) s = .fault (.outOfRangeFlash (s.ptr .z).toNat))

/-- R236, R237, 20_memory.md R94: IN and OUT access data address A + 0x20 with its hook. The offset 0x20 is the spec's
general knowledge (R94), IN's hook its decision D41. -/
def Obligations.InAndOut : Prop :=
  (∀ (d : Reg) (a : BitVec 6) (s : State), readOk (a.toNat + 0x20) s → ∃ v m t, memRead (a.toNat + 0x20) s = .ok (v, m)
      ∧ exec (.ioIn d a) s = .next t ∧ t.reg d = v ∧ t.flags = s.flags ∧ onlyRegs [d] m t ∧ movedOn 1 .ioIn 1 s t)
    ∧ ∀ (a : BitVec 6) (r : Reg) (s : State), writeOk (a.toNat + 0x20) (s.reg r) s → ∃ m t,
      memWrite (a.toNat + 0x20) (s.reg r) s = .ok m
      ∧ exec (.ioOut a r) s = .next t ∧ t.flags = m.flags ∧ onlyRegs [] m t ∧ movedOn 1 .ioOut 1 s t

/-- 41_logic_and_bit.md R166, R167: SBI and CBI are a read and a write of the same byte with one bit changed; at every
I/O address but EECR they complete, keep every other bit and byte, and log the pin change of a port. That they go
through the ordinary access points is the spec's decision D28. -/
def Obligations.IoBitWrites : Prop :=
  (∀ (a : BitVec 5) (b : BitNo) (s m w : State) (v : Byte), memRead (a.toNat + 0x20) s = .ok (v, m) →
      memWrite (a.toNat + 0x20) (v ||| 1#8 <<< b.val) m = .ok w → ∃ t, exec (.sbi a b) s = .next t
        ∧ t.flags = s.flags ∧ onlyRegs [] w t ∧ movedOn 1 .sbi 2 s t)
    ∧ (∀ (a : BitVec 5) (b : BitNo) (s m w : State) (v : Byte), memRead (a.toNat + 0x20) s = .ok (v, m) →
      memWrite (a.toNat + 0x20) (v &&& ~~~(1#8 <<< b.val)) m = .ok w → ∃ t, exec (.cbi a b) s = .next t
        ∧ t.flags = s.flags ∧ onlyRegs [] w t ∧ movedOn 1 .cbi 2 s t)
    ∧ (∀ (a : BitVec 5) (b : BitNo) (s : State) (x : Byte), a ≠ 0x1F → x = s.byteAt (a.toNat + 0x20) →
      ∃ t, exec (.sbi a b) s = .next t
        ∧ (∀ k : BitNo, (t.byteAt (a.toNat + 0x20)).getLsbD k.val = (x.getLsbD k.val || decide (k = b)))
        ∧ bytesKept [a.toNat + 0x20] s t ∧ regsKept [] s t ∧ t.sp = s.sp ∧ t.flags = s.flags ∧ movedOn 1 .sbi 2 s t
        ∧ t.hostLog = ((portAt (a.toNat + 0x20)).elim s.hostLog
            (fun p => .pinChange p x (t.byteAt (a.toNat + 0x20)) :: s.hostLog)))
    ∧ ∀ (a : BitVec 5) (b : BitNo) (s : State) (x : Byte), a ≠ 0x1F → x = s.byteAt (a.toNat + 0x20) →
      ∃ t, exec (.cbi a b) s = .next t
        ∧ (∀ k : BitNo, (t.byteAt (a.toNat + 0x20)).getLsbD k.val = (x.getLsbD k.val && !decide (k = b)))
        ∧ bytesKept [a.toNat + 0x20] s t ∧ regsKept [] s t ∧ t.sp = s.sp ∧ t.flags = s.flags ∧ movedOn 1 .cbi 2 s t
        ∧ t.hostLog = ((portAt (a.toNat + 0x20)).elim s.hostLog
            (fun p => .pinChange p x (t.byteAt (a.toNat + 0x20)) :: s.hostLog))

/-! ## System instructions (spec/46_system.md) -/

/-- R260 to R263: NOP, WDR, BREAK change nothing but pc and cycles; SLEEP neither with SE clear, sleeps with SE set in
idle mode, and is refused in any other mode. WDR and BREAK as NOP are the spec's decision D17, SLEEP's three cases
D18. -/
def Obligations.SystemInstructions : Prop :=
  (∀ (i : Instr) (c : CycCase) (s : State),
      (i = .nop ∧ c = .nop) ∨ (i = .wdr ∧ c = .wdr) ∨ (i = .brk ∧ c = .brk) →
      ∃ t, exec i s = .next t ∧ t.flags = s.flags ∧ onlyRegs [] s t ∧ movedOn 1 c 1 s t)
    ∧ (∀ s : State, (s.byteAt 0x53).getLsbD 0 = false → ∃ t, exec .sleep s = .next t ∧ t.flags = s.flags
      ∧ onlyRegs [] s t ∧ movedOn 1 .sleep 1 s t)
    ∧ (∀ s : State, (s.byteAt 0x53).toNat % 16 = 1 → ∃ t, exec .sleep s = .next t ∧ t.sleeping = true
      ∧ t.flags = s.flags ∧ regsKept [] s t ∧ t.sp = s.sp ∧ memKept s t ∧ movedOn 1 .sleep 1 s t ∧ t.pending = s.pending
      ∧ t.insideInterrupt = s.insideInterrupt ∧ t.last = s.last ∧ t.hostLog = s.hostLog)
    ∧ ∀ s : State, (s.byteAt 0x53).getLsbD 0 = true → (s.byteAt 0x53).toNat % 16 ≠ 1 →
      exec .sleep s = .refused .sleepModeNotIdle

/-! ## The access points and their hooks (spec/20_memory.md) -/

/-- R65 to R68: a general register's address reads and writes the register; a byte without a hook keeps what is
stored, and nothing else changes. That flag registers are plain bytes is the spec's decision D23. -/
def Obligations.PlainBytes : Prop :=
  (∀ (r : Reg) (v : Byte) (s : State), memRead r.val s = .ok (s.reg r, s) ∧ ∃ t, memWrite r.val v s = .ok t
      ∧ t.reg r = v ∧ onlyRegs [r] s t ∧ t.flags = s.flags ∧ t.pc = s.pc ∧ t.cycles = s.cycles)
    ∧ ∀ (a : Nat) (v : Byte) (s : State), plainByte a = true → memRead a s = .ok (s.byteAt a, s)
      ∧ ∃ t, memWrite a v s = .ok t ∧ memRead a t = .ok (v, t) ∧ bytesKept [a] s t ∧ regsKept [] s t ∧ t.sp = s.sp
        ∧ t.flags = s.flags ∧ t.pc = s.pc ∧ t.cycles = s.cycles ∧ systemKept s t

/-- 10_state.md R25, R26: SREG is the flags as one byte, SPL and SPH the halves of SP, both ways; a write of a half
takes effect at once and notifies the debugger's call-stack hook (R27). The addresses are the spec's general
knowledge, SP's 16 bits its decision D5. -/
def Obligations.SregAndSpBytes : Prop :=
  (∀ s : State, ∃ v, memRead 0x5F s = .ok (v, s) ∧ ∀ f : BitNo, v.getLsbD f.val = s.flags.get f)
    ∧ (∀ (v : Byte) (s : State), ∃ t, memWrite 0x5F v s = .ok t ∧ (∀ f : BitNo, t.flags.get f = v.getLsbD f.val)
      ∧ onlyRegs [] s t ∧ t.pc = s.pc ∧ t.cycles = s.cycles ∧ memRead 0x5F t = .ok (v, t))
    ∧ (∀ s : State, ∃ l h, memRead 0x5D s = .ok (l, s) ∧ memRead 0x5E s = .ok (h, s)
      ∧ s.sp.toNat = h.toNat * 256 + l.toNat)
    ∧ ∀ (l h : Byte) (s : State), ∃ t u, memWrite 0x5D l s = .ok t ∧ t.sp.toNat = s.sp.toNat / 256 * 256 + l.toNat
      ∧ t = { s with sp := t.sp, hostLog := notified .stackPointerWrite s }
      ∧ memWrite 0x5E h t = .ok u ∧ u.sp.toNat = h.toNat * 256 + l.toNat
      ∧ u = { s with sp := u.sp, hostLog := notified .stackPointerWrite t }

/-- R73, R74, R64: EECR. A read shows EEMPE cleared once its window has passed; a write stamps the window, reads, then
programs the EEPROM by its mode inside the window; outside the EEPROM it faults, in mode 3 it is refused. The bit
assignments, modes and window are the spec's decision D37. -/
def Obligations.EepromControl : Prop :=
  (∀ s : State, ∃ v t, memRead 0x3F s = .ok (v, t) ∧ bytesKept [0x3F] s t
      ∧ ∀ b : BitNo, v.getLsbD b.val = ((s.byteAt 0x3F).getLsbD b.val
          && !(decide (b = 2) && decide (s.params.eepromWeCycles ≤ s.cycles - s.last.eewe))))
    ∧ ∀ (v : Byte) (s : State) (go : Bool), go = eepromWriteGo v s →
      (writeOk 0x3F v s → ∃ t, memWrite 0x3F v s = .ok t
        ∧ (∀ b : BitNo, (t.byteAt 0x3F).getLsbD b.val = (v.getLsbD b.val && decide (1 < b.val)))
        ∧ t.last.eewe = (if v.getLsbD 2 then s.cycles else s.last.eewe)
        ∧ t.byteAt 0x40 = (if v.getLsbD 0 then s.eeprom.read s.eear else s.byteAt 0x40)
        ∧ t.eeprom.read s.eear = (if go then
            (if v.toNat / 16 % 4 = 0 then t.byteAt 0x40 else if v.toNat / 16 % 4 = 1 then 0xFF
              else s.eeprom.read s.eear &&& t.byteAt 0x40) else s.eeprom.read s.eear)
        ∧ (∀ a, a ≠ s.eear → t.eeprom.read a = s.eeprom.read a)
        ∧ (∀ a, a ≠ 0x3F → a ≠ 0x40 → t.byteAt a = s.byteAt a) ∧ t.flags = s.flags ∧ regsKept [] s t)
      ∧ (v.getLsbD 0 = true ∨ go = true → 1024 ≤ s.eear → memWrite 0x3F v s = raise (.outOfRangeEeprom s.eear))
      ∧ (go = true → s.eear < 1024 → v.toNat / 16 % 4 = 3 → memWrite 0x3F v s = refuse .eepromMode3)

/-- R75, R76, R79, R80: PLLCSR and ADCSRA. PLOCK appears PLL_LOCK_CYCLES after the enable edge and is not the
program's to write; ADSC goes ADC_CONV_CYCLES after the start. The edges and the read-only lock are the spec's
decision D37, the ADC stamp its derived rule R80 (C3). -/
def Obligations.PllAndAdc : Prop :=
  (∀ s : State, ∃ v t, memRead 0x49 s = .ok (v, t) ∧ bytesKept [0x49] s t
      ∧ ∀ b : BitNo, v.getLsbD b.val = ((s.byteAt 0x49).getLsbD b.val || (decide (b = 0) && (s.byteAt 0x49).getLsbD 1
          && decide (s.params.pllLockCycles ≤ s.cycles - s.last.pll))))
    ∧ (∀ (v old : Byte) (s m : State), memRead 0x49 s = .ok (old, m) → ∃ t, memWrite 0x49 v s = .ok t
      ∧ (∀ b : BitNo, (t.byteAt 0x49).getLsbD b.val
          = if b = 0 then v.getLsbD 1 && old.getLsbD 0 else v.getLsbD b.val)
      ∧ t.last.pll = (if v.getLsbD 1 && !old.getLsbD 1 then s.cycles else s.last.pll) ∧ bytesKept [0x49] s t)
    ∧ (∀ s : State, ∃ v t, memRead 0x7A s = .ok (v, t) ∧ bytesKept [0x7A] s t
      ∧ ∀ b : BitNo, v.getLsbD b.val = ((s.byteAt 0x7A).getLsbD b.val
          && !(decide (b = 6) && decide (s.params.adcConvCycles ≤ s.cycles - s.last.adc))))
    ∧ ∀ (v old : Byte) (s m : State), memRead 0x7A s = .ok (old, m) → ∃ t, memWrite 0x7A v s = .ok t
      ∧ t.byteAt 0x7A = v ∧ t.last.adc = (if v.getLsbD 6 && !old.getLsbD 6 then s.cycles else s.last.adc)
      ∧ bytesKept [0x7A] s t

/-- R77, R81, R349: a write to SPDR leaves the attached callback's byte, a free value, or 0x00; a write to a port
stores the byte and calls the host with the old and the new one; of the rest of the state nothing changes. A free
value for the callback's byte is the spec's decision D37; the log is the model's own (log entries 9, 10). -/
def Obligations.SpiAndPorts : Prop :=
  (∀ (v : Byte) (s : State), s.params.spiAttached = false → ∃ t, memWrite 0x4E v s = .ok t ∧ t.byteAt 0x4E = 0
      ∧ bytesKept [0x4E] s t ∧ t = { s with data := t.data })
    ∧ (∀ (v : Byte) (s : State), s.params.spiAttached = true → ∃ t, memWrite 0x4E v s = .ok t
      ∧ t.byteAt 0x4E = Config.spiReply s.draws ∧ bytesKept [0x4E] s t
      ∧ t = { s with data := t.data, draws := s.draws + 1, hostLog := .spiShift v :: s.hostLog })
    ∧ ∀ (a : Nat) (p : Port) (v : Byte) (s : State), portAt a = some p → ∃ t, memWrite a v s = .ok t ∧ t.byteAt a = v
      ∧ bytesKept [a] s t ∧ t = { s with data := t.data, hostLog := .pinChange p (s.byteAt a) v :: s.hostLog }

/-- R69, R85: at one cycle count a second read of any address gives the same byte and changes nothing more, and so
does a second full resynchronisation. -/
def Obligations.ReadsAreIdempotent : Prop :=
  (∀ (a : Nat) (s t : State) (v : Byte), memRead a s = .ok (v, t) → memRead a t = .ok (v, t))
    ∧ ∀ s t : State, fullResync s = .ok t → fullResync t = .ok t

/-! ## Timers and interrupts (spec/60_exceptions.md) -/

/-- R311, R312, R314, R315: timer0's prescaler table and its catch-up by whole ticks, with TOV0 on a wrap and the
remainder kept; a write of TCNT0 that decreases the caught-up count sets TOV0; a write of TCCR0B catches up at the old
rate and restarts a changed prescaler. The prescaler table and the rebase are the spec's decision D24. -/
def Obligations.Timer0 : Prop :=
  ((List.range 8).map prescale = [some 0, some 1, some 8, some 64, some 256, some 1024, none, none])
    ∧ (∀ (now d k : Nat) (s : State), prescale ((s.byteAt 0x45).toNat % 8) = some d → k = (now - s.last.t0) / d →
      ∃ t, catchUp0 now s = .ok t ∧ (t.byteAt 0x46).toNat = ((s.byteAt 0x46).toNat + k) % 256
        ∧ (∀ b : BitNo, (t.byteAt 0x35).getLsbD b.val
            = ((s.byteAt 0x35).getLsbD b.val || (decide (b = 0) && decide (256 ≤ (s.byteAt 0x46).toNat + k))))
        ∧ t.last = { s.last with t0 := if d = 0 then now else s.last.t0 + k * d } ∧ bytesKept [0x46, 0x35] s t
        ∧ t = { s with data := t.data, last := t.last })
    ∧ (∀ (now : Nat) (s : State), 6 ≤ (s.byteAt 0x45).toNat % 8 → catchUp0 now s = refuse .timer0ClockSelect)
    ∧ (∀ (v : Byte) (s m : State), catchUp0 s.cycles s = .ok m → ∃ t, memWrite 0x46 v s = .ok t ∧ t.byteAt 0x46 = v
      ∧ (∀ b : BitNo, (t.byteAt 0x35).getLsbD b.val
          = ((m.byteAt 0x35).getLsbD b.val || (decide (b = 0) && decide (v.toNat < (m.byteAt 0x46).toNat))))
      ∧ t.last = m.last ∧ bytesKept [0x46, 0x35] s t)
    ∧ ∀ (v : Byte) (s m : State), catchUp0 s.cycles s = .ok m → ∃ t, memWrite 0x45 v s = .ok t ∧ t.byteAt 0x45 = v
      ∧ t.byteAt 0x46 = m.byteAt 0x46 ∧ t.byteAt 0x35 = m.byteAt 0x35 ∧ bytesKept [0x45, 0x46, 0x35] s t
      ∧ t.last.t0 = (if v.toNat % 8 = (s.byteAt 0x45).toNat % 8 then m.last.t0 else s.cycles)

/-- R317 to R319, R321 to R323: timer3 and timer4 pass the values after their counts, one per tick, timer4 modulo its
top plus one; a compare flag is set exactly when one of those values is the compare target, TOV4 on a wrap, timer3's
memo when ticks passed tells whether it matched; PORTC is toggled once per match, so by the parity of their number, in
bits 6 and 7 alone. Timer3 in a waveform mode or with select 6 or 7 is refused. Nothing else changes. When timer3
matches and what is refused are the spec's decision D25, timer4's constants are open (D26): their forms and the
suggestions are the model's choice (log entry 8). -/
def Obligations.Timers3And4 : Prop :=
  (∀ (now d k : Nat) (s : State), (s.byteAt 0x90).toNat % 4 = 0 → (s.byteAt 0x91).toNat / 8 % 4 = 0 →
    prescale ((s.byteAt 0x91).toNat % 8) = some d → k = (now - s.last.t3) / d →
    ∃ t, catchUp3 now s = .ok t ∧ t.tcnt3.toNat = (s.tcnt3.toNat + k) % 65536
      ∧ ((t.byteAt 0x38).getLsbD 1 = true ↔ (s.byteAt 0x38).getLsbD 1 = true
          ∨ ∃ j, 1 ≤ j ∧ j ≤ k ∧ (s.tcnt3.toNat + j) % 65536 = s.ocr3a.toNat)
      ∧ (∀ b : BitNo, b ≠ 1 → (t.byteAt 0x38).getLsbD b.val = (s.byteAt 0x38).getLsbD b.val)
      ∧ (k = 0 → t.t3Triggered = s.t3Triggered)
      ∧ (k ≠ 0 → (t.t3Triggered = true ↔ ∃ j, 1 ≤ j ∧ j ≤ k ∧ (s.tcnt3.toNat + j) % 65536 = s.ocr3a.toNat))
      ∧ t.last = { s.last with t3 := if d = 0 then now else s.last.t3 + k * d } ∧ bytesKept [0x94, 0x95, 0x38] s t
      ∧ t = { s with data := t.data, last := t.last, t3Triggered := t.t3Triggered })
    ∧ (∀ (now : Nat) (s : State), (s.byteAt 0x90).toNat % 4 ≠ 0 ∨ (s.byteAt 0x91).toNat / 8 % 4 ≠ 0
        ∨ 6 ≤ (s.byteAt 0x91).toNat % 8 → catchUp3 now s = refuse .timer3Mode)
    ∧ (∀ (now : Nat) (s : State), divisor4 s = 0 → catchUp4 now s = { s with last := { s.last with t4 := now } })
    ∧ (∀ (now k m old n : Nat) (s t : State), divisor4 s ≠ 0 → k = (now - s.last.t4) / divisor4 s →
      m = s.params.t4Top + 1 → m ≤ 1024 → old = s.tcnt4 % m →
      n = (List.range k).countP (fun j => decide ((old + j + 1) % m = t4Compare s)) → t = catchUp4 now s →
      (k = 0 → t = s) ∧ (k ≠ 0 → t.tcnt4 = (old + k) % m)
        ∧ (∀ b : BitNo, 2 ≤ b.val → (t.byteAt 0xBF).getLsbD b.val = (s.byteAt 0xBF).getLsbD b.val)
        ∧ (∀ b : BitNo, (t.byteAt 0x39).getLsbD b.val = ((s.byteAt 0x39).getLsbD b.val
            || (decide (b = 2) && decide (k ≠ 0 ∧ m ≤ old + k)) || (decide (b = 6) && decide (0 < n))))
        ∧ t.byteAt 0x28 = (if n % 2 = 1 then s.byteAt 0x28 ^^^ t4Toggle s else s.byteAt 0x28)
        ∧ t.last = { s.last with t4 := s.last.t4 + k * divisor4 s } ∧ bytesKept [0xBE, 0xBF, 0x39, 0x28] s t
        ∧ t = { s with data := t.data, last := t.last })
    ∧ (∀ (s : State) (b : BitNo), b.val < 6 → (t4Toggle s).getLsbD b.val = false)
    ∧ ∀ s : State, s.params.t4Div = resetParams.t4Div → s.params.t4Compare = resetParams.t4Compare →
      s.params.t4Toggle = resetParams.t4Toggle →
      divisor4 s = (if (s.byteAt 0xC1).toNat % 16 = 0 then 0 else 2 ^ ((s.byteAt 0xC1).toNat % 16 - 1))
        ∧ t4Compare s = (s.byteAt 0xCF).toNat
        ∧ t4Toggle s = (if s.byteAt 0xC0 &&& 0xC0 = 0 then 0 else s.byteAt 0x27 &&& 0xC0)

/-- R310: with a top the 10-bit counter can hold and a compare target that does not depend on what a catch-up changes,
catching up to `n` at once and catching up to `m` first leave the same bytes and baselines: the result does not depend
on how often catch-up runs. Keeping the remainder is the spec's decision D24; the conditions on the open parameters
T4_TOP and T4_COMPARE are this statement's own (D26). -/
def Obligations.CatchUpSplits : Prop :=
  ∀ (m n : Nat) (s t u v : State), m ≤ n → s.params.t4Top ≤ 1023 → compareSteady s.params → catchUpAll n s = .ok u →
    catchUpAll m s = .ok t → catchUpAll n t = .ok v → (∀ a, v.byteAt a = u.byteAt a) ∧ v.last = u.last

/-- R284, R281: recognition makes exactly the sources pending whose flag and enable are 1, and changes nothing else.
The link from flag to pending bit is the spec's decision D11, the vectors D36. -/
def Obligations.Recognition : Prop :=
  ∀ s : State, recognise s = { s with pending := (recognise s).pending }
    ∧ ∀ n : Fin 43, (recognise s).pending.getLsbD n.val = (s.pending.getLsbD n.val
        || (decide (n = 23) && (s.byteAt 0x35).getLsbD 0 && (s.byteAt 0x6E).getLsbD 0)
        || (decide (n = 32) && (s.byteAt 0x38).getLsbD 1 && (s.byteAt 0x71).getLsbD 1)
        || (decide (n = 38) && (s.byteAt 0x39).getLsbD 6 && (s.byteAt 0x72).getLsbD 6)
        || (decide (n = 41) && (s.byteAt 0x39).getLsbD 2 && (s.byteAt 0x72).getLsbD 2))

/-- R286, R287, R275: dispatch does nothing while I is 0 or nothing is pending; else it enters the lowest pending
vector; where the return address cannot be pushed it faults with the first byte address outside the window (R195), and
the stopped machine keeps what preceded it. Clearing I and the flag and setting the re-entrancy flag are the spec's
decision D12, the cycles D14, the kept instruction derived (R275). -/
def Obligations.InterruptEntry : Prop :=
  (∀ s : State, s.flags.i = false ∨ s.pending = 0 → dispatch s = .ok s)
    ∧ (∀ (n : Fin 43) (s : State), s.flags.i = true → s.pending.getLsbD n.val = true →
      (∀ m : Fin 43, m < n → s.pending.getLsbD m.val = false) → 0x101 ≤ s.sp.toNat → s.sp.toNat < 0xB00 →
      ∃ t, dispatch s = .ok t ∧ t.pc.toNat = 2 * n.val ∧ t.flags.i = false ∧ flagsKept [7] s t
        ∧ word16 (t.byteAt (s.sp.toNat - 1)) (t.byteAt s.sp.toNat) = s.pc ∧ t.sp = s.sp - 2
        ∧ (∀ m : Fin 43, t.pending.getLsbD m.val = (s.pending.getLsbD m.val && !decide (m = n)))
        ∧ (∀ src ∈ irqSources, src.vector = n → ∀ b : BitNo, (t.byteAt src.flagReg).getLsbD b.val
            = ((s.byteAt src.flagReg).getLsbD b.val && !decide (b.val = src.flagBit)))
        ∧ t.insideInterrupt = true ∧ t.sleeping = false
        ∧ t.cycles = s.cycles + s.params.irqEntryCycles + (if s.sleeping then s.params.wakeupCycles else 0)
        ∧ t.gpr = s.gpr ∧ t.eeprom = s.eeprom ∧ t.flash = s.flash ∧ t.last = s.last ∧ t.t3Triggered = s.t3Triggered
        ∧ t.hasProgram = s.hasProgram ∧ t.params = s.params ∧ t.draws = s.draws ∧ t.hostLog = notified .callStackPush s
        ∧ ∀ a, a ≠ s.sp.toNat → a ≠ s.sp.toNat - 1 → (∀ src ∈ irqSources, src.vector = n → a ≠ src.flagReg) →
            t.byteAt a = s.byteAt a)
    ∧ ∀ (s t u : State) (a : Nat), s.hasProgram = true → stepBody s = .next t → catchUpAll t.cycles t = .ok u →
      u.flags.i = true → (recognise u).pending ≠ 0 →
      ((u.sp.toNat < 0x100 ∨ 0xB00 ≤ u.sp.toNat) ∧ a = u.sp.toNat) ∨ (u.sp.toNat = 0x100 ∧ a = 0xFF) →
      step s = .fault (.outOfRangeStack a) ∧ stoppedState s = some (.outOfRangeStack a, recognise u)

end
end

