-- ==== Sys2Proof/Laws/Res.lean ====
section
/-! SUPPORT. How results compose: a part that stops ends the whole, a part that answers is followed by the next. -/

namespace Sys2Proof.Machine

@[simp] theorem ok_bind {α β : Type} (a : α) (f : α → Res β) : ((Except.ok a : Res α) >>= f) = f a := rfl

@[simp] theorem error_bind {α β : Type} (e : Stop) (f : α → Res β) : ((Except.error e : Res α) >>= f) = .error e := rfl

@[simp] theorem raise_bind {α β : Type} (e : Fault) (f : α → Res β) : ((raise e : Res α) >>= f) = raise e := rfl

@[simp] theorem refuse_bind {α β : Type} (e : Refusal) (f : α → Res β) : ((refuse e : Res α) >>= f) = refuse e := rfl

/-- A sequence answers exactly when both of its parts do. -/
theorem bind_eq_ok {α β : Type} {x : Res α} {f : α → Res β} {b : β} :
    (x >>= f) = .ok b ↔ ∃ a, x = .ok a ∧ f a = .ok b := by
  cases x <;> simp

@[simp] theorem outcome_ok (t : State) : outcome (.ok t) = .next t := rfl

@[simp] theorem outcome_raise (f : Fault) : outcome (raise f) = .fault f := rfl

@[simp] theorem outcome_refuse (r : Refusal) : outcome (refuse r) = .refused r := rfl

/-- The answer of a meaning is a next state exactly when its result is one. -/
theorem outcome_eq_next {x : Res State} {t : State} : outcome x = .next t ↔ x = .ok t := by
  rcases x with (f | r) | s <;> simp [outcome]

@[simp] theorem raise_ne_ok {α : Type} (f : Fault) (a : α) : (raise f : Res α) ≠ .ok a := by simp [raise]

@[simp] theorem refuse_ne_ok {α : Type} (r : Refusal) (a : α) : (refuse r : Res α) ≠ .ok a := by simp [refuse]

end Sys2Proof.Machine
end

