-- ==== Sys2Proof/Laws/Memory.lean ====
section
/-! SUPPORT. The laws of the sparse memory: read after write, canonical form and address range kept, and that canonical
memories are equal when all their bytes are. -/

namespace Sys2Proof.Machine

theorem Memory.read_erase_same (m : Memory) (a : Nat) : (Memory.erase m a).read a = Memory.unlisted := by
  induction m with
  | nil => rfl
  | cons c rest ih =>
    obtain ⟨b, x⟩ := c
    by_cases h : b = a
    · simpa [Memory.erase, h] using ih
    · simpa [Memory.erase, h, Memory.read] using ih

theorem Memory.read_erase_other (m : Memory) {a b : Nat} (h : b ≠ a) : (Memory.erase m a).read b = m.read b := by
  induction m with
  | nil => rfl
  | cons c rest ih =>
    obtain ⟨e, x⟩ := c
    by_cases he : e = a
    · have : e ≠ b := fun hb => h (hb.symm.trans he)
      simpa [Memory.erase, he, Memory.read, Ne.symm h] using ih
    · by_cases hb : e = b <;> simp_all [Memory.erase, Memory.read]

theorem Memory.read_insert_other (m : Memory) {a b : Nat} (v : Byte) (h : b ≠ a) :
    (Memory.insert m a v).read b = m.read b := by
  induction m with
  | nil => simp [Memory.insert, Memory.read, Ne.symm h]
  | cons c rest ih =>
    obtain ⟨e, x⟩ := c
    by_cases he : a < e
    · simp [Memory.insert, he, Memory.read, Ne.symm h]
    · simp [Memory.insert, he, Memory.read, ih]

theorem Memory.read_insert_same (m : Memory) (a : Nat) (v : Byte) :
    (Memory.insert (Memory.erase m a) a v).read a = v := by
  induction m with
  | nil => simp [Memory.erase, Memory.insert, Memory.read]
  | cons c rest ih =>
    obtain ⟨e, x⟩ := c
    by_cases he : e = a
    · simpa [Memory.erase, he] using ih
    · by_cases hl : a < e
      · simp [Memory.erase, he, Memory.insert, hl, Memory.read]
      · simpa [Memory.erase, he, Memory.insert, hl, Memory.read] using ih

/-- A read after a write to the same place gives the value written. -/
@[simp] theorem Memory.read_write_same (m : Memory) (a : Nat) (v : Byte) : (Memory.write m a v).read a = v := by
  unfold Memory.write
  split
  · next h => rw [h, Memory.read_erase_same]
  · exact Memory.read_insert_same m a v

/-- A write leaves every other place alone. -/
theorem Memory.read_write_other (m : Memory) {a b : Nat} (v : Byte) (h : b ≠ a) :
    (Memory.write m a v).read b = m.read b := by
  unfold Memory.write
  split
  · exact Memory.read_erase_other m h
  · rw [Memory.read_insert_other _ v h, Memory.read_erase_other m h]

/-- Both laws as one equation. -/
theorem Memory.read_write (m : Memory) (a b : Nat) (v : Byte) :
    (Memory.write m a v).read b = if b = a then v else m.read b := by
  split
  · next h => rw [h, Memory.read_write_same]
  · next h => exact Memory.read_write_other m v h

theorem Memory.wfFrom_mono {lo lo' : Nat} {m : Memory} (h : Memory.wfFrom lo m = true) (hl : lo' ≤ lo) :
    Memory.wfFrom lo' m = true := by
  cases m with
  | nil => rfl
  | cons c rest =>
    simp only [Memory.wfFrom, Bool.and_eq_true, decide_eq_true_eq] at h ⊢
    exact ⟨⟨by omega, h.1.2⟩, h.2⟩

theorem Memory.wfFrom_erase {lo : Nat} {m : Memory} (a : Nat) (h : Memory.wfFrom lo m = true) :
    Memory.wfFrom lo (Memory.erase m a) = true := by
  induction m generalizing lo with
  | nil => rfl
  | cons c rest ih =>
    simp only [Memory.wfFrom, Bool.and_eq_true, decide_eq_true_eq] at h
    by_cases hc : c.1 = a
    · simpa [Memory.erase, hc] using ih (Memory.wfFrom_mono h.2 (by omega : lo ≤ c.1 + 1))
    · have := ih h.2
      simp_all [Memory.erase, Memory.wfFrom]

theorem Memory.wfFrom_insert {lo : Nat} {m : Memory} {a : Nat} {v : Byte} (h : Memory.wfFrom lo (Memory.erase m a) = true)
    (hv : v ≠ Memory.unlisted) (hl : lo ≤ a) : Memory.wfFrom lo (Memory.insert (Memory.erase m a) a v) = true := by
  induction m generalizing lo with
  | nil => simp [Memory.erase, Memory.insert, Memory.wfFrom, hv, hl]
  | cons c rest ih =>
    by_cases hc : c.1 = a
    · have he : Memory.erase (c :: rest) a = Memory.erase rest a := by simp [Memory.erase, hc]
      rw [he] at h ⊢
      exact ih h hl
    · have he : Memory.erase (c :: rest) a = c :: Memory.erase rest a := by simp [Memory.erase, hc]
      rw [he] at h ⊢
      simp only [Memory.wfFrom, Bool.and_eq_true, decide_eq_true_eq] at h
      by_cases ha : a < c.1
      · simp only [Memory.insert, ha, if_true, Memory.wfFrom, Bool.and_eq_true, decide_eq_true_eq]
        exact ⟨⟨hl, hv⟩, ⟨by omega, h.1.2⟩, h.2⟩
      · simp only [Memory.insert, ha, if_false, Memory.wfFrom, Bool.and_eq_true, decide_eq_true_eq]
        exact ⟨h.1, ih h.2 (by omega)⟩

/-- A write keeps the canonical form. -/
theorem Memory.wf_write {m : Memory} (a : Nat) (v : Byte) (h : m.wf = true) : (Memory.write m a v).wf = true := by
  unfold Memory.write
  split
  · exact Memory.wfFrom_erase a h
  · next hv => exact Memory.wfFrom_insert (Memory.wfFrom_erase a h) hv (Nat.zero_le a)

/-- A run of writes keeps the canonical form. -/
theorem Memory.wf_writeBytes {m : Memory} (a : Nat) (l : List Byte) (h : m.wf = true) :
    (Memory.writeBytes m a l).wf = true := by
  induction l generalizing m a with
  | nil => exact h
  | cons v rest ih => exact ih (a + 1) (Memory.wf_write a v h)

theorem Memory.mem_write {m : Memory} {a : Nat} {v : Byte} {c : Host.Cell} (h : c ∈ Memory.write m a v) :
    c ∈ m ∨ c = (a, v) := by
  have ins : ∀ n : Memory, c ∈ Memory.insert n a v → c ∈ n ∨ c = (a, v) := by
    intro n
    induction n with
    | nil => intro hc; right; simpa [Memory.insert] using hc
    | cons d rest ih =>
      intro hc
      by_cases hd : a < d.1
      · simp only [Memory.insert, hd, if_true, List.mem_cons] at hc
        rcases hc with hc | hc | hc
        · exact .inr hc
        · exact .inl (by simp [hc])
        · exact .inl (by simp [hc])
      · simp only [Memory.insert, hd, if_false, List.mem_cons] at hc
        rcases hc with hc | hc
        · exact .inl (by simp [hc])
        · rcases ih hc with h | h
          · exact .inl (by simp [h])
          · exact .inr h
  unfold Memory.write at h
  split at h
  · exact .inl (List.mem_of_mem_filter h)
  · rcases ins _ h with h | h
    · exact .inl (List.mem_of_mem_filter h)
    · exact .inr h

/-- A write inside a range keeps every address in the range. -/
theorem Memory.within_write {m : Memory} {lo hi a : Nat} (v : Byte) (h : m.within lo hi = true) (hlo : lo ≤ a)
    (hhi : a < hi) : (Memory.write m a v).within lo hi = true := by
  simp only [Memory.within, List.all_eq_true, Bool.and_eq_true, decide_eq_true_eq] at h ⊢
  intro c hc
  rcases Memory.mem_write hc with hm | hm
  · exact h c hm
  · rw [hm]; exact ⟨hlo, hhi⟩

/-- An address below every listed one reads as unlisted. -/
theorem Memory.read_below {m : Memory} {lo a : Nat} (h : Memory.wfFrom lo m = true) (ha : a < lo) :
    m.read a = Memory.unlisted := by
  induction m generalizing lo with
  | nil => rfl
  | cons c rest ih =>
    simp only [Memory.wfFrom, Bool.and_eq_true, decide_eq_true_eq] at h
    have : c.1 ≠ a := by omega
    simp only [Memory.read, this, if_false]
    exact ih h.2 (by omega)

/-- An address outside the range of every listed one reads as unlisted. -/
theorem Memory.read_outside {m : Memory} {lo hi a : Nat} (h : m.within lo hi = true) (ha : a < lo ∨ hi ≤ a) :
    m.read a = Memory.unlisted := by
  induction m with
  | nil => rfl
  | cons c rest ih =>
    simp only [Memory.within, List.all_cons, Bool.and_eq_true, decide_eq_true_eq] at h
    have : c.1 ≠ a := by omega
    simp only [Memory.read, this, if_false]
    exact ih h.2

theorem Memory.ext_from {lo : Nat} {m n : Memory} (hm : Memory.wfFrom lo m = true) (hn : Memory.wfFrom lo n = true)
    (h : ∀ a, m.read a = n.read a) : m = n := by
  induction m generalizing n lo with
  | nil =>
    cases n with
    | nil => rfl
    | cons d rest =>
      simp only [Memory.wfFrom, Bool.and_eq_true, decide_eq_true_eq] at hn
      exact absurd (h d.1).symm (by simpa [Memory.read] using hn.1.2)
  | cons c rest ih =>
    cases n with
    | nil =>
      simp only [Memory.wfFrom, Bool.and_eq_true, decide_eq_true_eq] at hm
      exact absurd (h c.1) (by simpa [Memory.read] using hm.1.2)
    | cons d rest' =>
      obtain ⟨b, x⟩ := c
      obtain ⟨e, y⟩ := d
      simp only [Memory.wfFrom, Bool.and_eq_true, decide_eq_true_eq] at hm hn
      have hbe : b = e := by
        rcases Nat.lt_trichotomy b e with hlt | heq | hgt
        · have hr : Memory.read rest' b = Memory.unlisted := Memory.read_below hn.2 (by omega)
          have := h b
          have hne : ¬ e = b := by omega
          simp only [Memory.read, if_true, if_neg hne, hr] at this
          exact absurd this hm.1.2
        · exact heq
        · have hr : Memory.read rest e = Memory.unlisted := Memory.read_below hm.2 (by omega)
          have := h e
          have hne : ¬ b = e := by omega
          simp only [Memory.read, if_true, if_neg hne, hr] at this
          exact absurd this.symm hn.1.2
      subst hbe
      have hxy : x = y := by simpa [Memory.read] using h b
      subst hxy
      have : rest = rest' := by
        refine ih hm.2 hn.2 (fun a => ?_)
        by_cases ha : b = a
        · rw [← ha, Memory.read_below hm.2 (by omega), Memory.read_below hn.2 (by omega)]
        · simpa [Memory.read, ha] using h a
      rw [this]

/-- Canonical memories with equal bytes are equal data. -/
theorem Memory.ext {m n : Memory} (hm : m.wf = true) (hn : n.wf = true) (h : ∀ a, m.read a = n.read a) : m = n :=
  Memory.ext_from hm hn h

/-- Writes at different places commute, as data. -/
theorem Memory.write_comm {m : Memory} {a b : Nat} (v w : Byte) (hm : m.wf = true) (hab : a ≠ b) :
    Memory.write (Memory.write m a v) b w = Memory.write (Memory.write m b w) a v := by
  refine Memory.ext (Memory.wf_write _ _ (Memory.wf_write _ _ hm)) (Memory.wf_write _ _ (Memory.wf_write _ _ hm)) ?_
  intro c
  simp only [Memory.read_write]
  split <;> split <;> simp_all

end Sys2Proof.Machine
end

