-- ==== Sys2Proof/Laws/State.lean ====
section
/-! SUPPORT. One lemma per field per named update of the state, and the accessors' laws: no later proof unfolds an update. -/

namespace Sys2Proof.Machine

variable (s : State)

/-! ### setReg -/

@[simp] theorem State.setReg_gpr (i : Reg) (v : Byte) : (s.setReg i v).gpr = s.gpr.set i.val v := rfl
@[simp] theorem State.setReg_flags (i : Reg) (v : Byte) : (s.setReg i v).flags = s.flags := rfl
@[simp] theorem State.setReg_sp (i : Reg) (v : Byte) : (s.setReg i v).sp = s.sp := rfl
@[simp] theorem State.setReg_pc (i : Reg) (v : Byte) : (s.setReg i v).pc = s.pc := rfl
@[simp] theorem State.setReg_cycles (i : Reg) (v : Byte) : (s.setReg i v).cycles = s.cycles := rfl
@[simp] theorem State.setReg_sleeping (i : Reg) (v : Byte) : (s.setReg i v).sleeping = s.sleeping := rfl
@[simp] theorem State.setReg_pending (i : Reg) (v : Byte) : (s.setReg i v).pending = s.pending := rfl
@[simp] theorem State.setReg_insideInterrupt (i : Reg) (v : Byte) : (s.setReg i v).insideInterrupt = s.insideInterrupt := rfl
@[simp] theorem State.setReg_hasProgram (i : Reg) (v : Byte) : (s.setReg i v).hasProgram = s.hasProgram := rfl
@[simp] theorem State.setReg_last (i : Reg) (v : Byte) : (s.setReg i v).last = s.last := rfl
@[simp] theorem State.setReg_t3Triggered (i : Reg) (v : Byte) : (s.setReg i v).t3Triggered = s.t3Triggered := rfl
@[simp] theorem State.setReg_data (i : Reg) (v : Byte) : (s.setReg i v).data = s.data := rfl
@[simp] theorem State.setReg_eeprom (i : Reg) (v : Byte) : (s.setReg i v).eeprom = s.eeprom := rfl
@[simp] theorem State.setReg_flash (i : Reg) (v : Byte) : (s.setReg i v).flash = s.flash := rfl
@[simp] theorem State.setReg_params (i : Reg) (v : Byte) : (s.setReg i v).params = s.params := rfl
@[simp] theorem State.setReg_draws (i : Reg) (v : Byte) : (s.setReg i v).draws = s.draws := rfl
@[simp] theorem State.setReg_hostLog (i : Reg) (v : Byte) : (s.setReg i v).hostLog = s.hostLog := rfl
@[simp] theorem State.setReg_byteAt (i : Reg) (v : Byte) (x : Nat) : (s.setReg i v).byteAt x = s.byteAt x := rfl
@[simp] theorem State.setReg_flashAt (i : Reg) (v : Byte) (x : Nat) : (s.setReg i v).flashAt x = s.flashAt x := rfl

/-! ### setPair -/

@[simp] theorem State.setPair_flags (i : Reg) (v : Word) : (s.setPair i v).flags = s.flags := rfl
@[simp] theorem State.setPair_sp (i : Reg) (v : Word) : (s.setPair i v).sp = s.sp := rfl
@[simp] theorem State.setPair_pc (i : Reg) (v : Word) : (s.setPair i v).pc = s.pc := rfl
@[simp] theorem State.setPair_cycles (i : Reg) (v : Word) : (s.setPair i v).cycles = s.cycles := rfl
@[simp] theorem State.setPair_sleeping (i : Reg) (v : Word) : (s.setPair i v).sleeping = s.sleeping := rfl
@[simp] theorem State.setPair_pending (i : Reg) (v : Word) : (s.setPair i v).pending = s.pending := rfl
@[simp] theorem State.setPair_insideInterrupt (i : Reg) (v : Word) : (s.setPair i v).insideInterrupt = s.insideInterrupt := rfl
@[simp] theorem State.setPair_hasProgram (i : Reg) (v : Word) : (s.setPair i v).hasProgram = s.hasProgram := rfl
@[simp] theorem State.setPair_last (i : Reg) (v : Word) : (s.setPair i v).last = s.last := rfl
@[simp] theorem State.setPair_t3Triggered (i : Reg) (v : Word) : (s.setPair i v).t3Triggered = s.t3Triggered := rfl
@[simp] theorem State.setPair_data (i : Reg) (v : Word) : (s.setPair i v).data = s.data := rfl
@[simp] theorem State.setPair_eeprom (i : Reg) (v : Word) : (s.setPair i v).eeprom = s.eeprom := rfl
@[simp] theorem State.setPair_flash (i : Reg) (v : Word) : (s.setPair i v).flash = s.flash := rfl
@[simp] theorem State.setPair_params (i : Reg) (v : Word) : (s.setPair i v).params = s.params := rfl
@[simp] theorem State.setPair_draws (i : Reg) (v : Word) : (s.setPair i v).draws = s.draws := rfl
@[simp] theorem State.setPair_hostLog (i : Reg) (v : Word) : (s.setPair i v).hostLog = s.hostLog := rfl
@[simp] theorem State.setPair_byteAt (i : Reg) (v : Word) (x : Nat) : (s.setPair i v).byteAt x = s.byteAt x := rfl
@[simp] theorem State.setPair_flashAt (i : Reg) (v : Word) (x : Nat) : (s.setPair i v).flashAt x = s.flashAt x := rfl

/-! ### setFlags -/

@[simp] theorem State.setFlags_gpr (f : Flags) : (s.setFlags f).gpr = s.gpr := rfl
@[simp] theorem State.setFlags_flags (f : Flags) : (s.setFlags f).flags = f := rfl
@[simp] theorem State.setFlags_sp (f : Flags) : (s.setFlags f).sp = s.sp := rfl
@[simp] theorem State.setFlags_pc (f : Flags) : (s.setFlags f).pc = s.pc := rfl
@[simp] theorem State.setFlags_cycles (f : Flags) : (s.setFlags f).cycles = s.cycles := rfl
@[simp] theorem State.setFlags_sleeping (f : Flags) : (s.setFlags f).sleeping = s.sleeping := rfl
@[simp] theorem State.setFlags_pending (f : Flags) : (s.setFlags f).pending = s.pending := rfl
@[simp] theorem State.setFlags_insideInterrupt (f : Flags) : (s.setFlags f).insideInterrupt = s.insideInterrupt := rfl
@[simp] theorem State.setFlags_hasProgram (f : Flags) : (s.setFlags f).hasProgram = s.hasProgram := rfl
@[simp] theorem State.setFlags_last (f : Flags) : (s.setFlags f).last = s.last := rfl
@[simp] theorem State.setFlags_t3Triggered (f : Flags) : (s.setFlags f).t3Triggered = s.t3Triggered := rfl
@[simp] theorem State.setFlags_data (f : Flags) : (s.setFlags f).data = s.data := rfl
@[simp] theorem State.setFlags_eeprom (f : Flags) : (s.setFlags f).eeprom = s.eeprom := rfl
@[simp] theorem State.setFlags_flash (f : Flags) : (s.setFlags f).flash = s.flash := rfl
@[simp] theorem State.setFlags_params (f : Flags) : (s.setFlags f).params = s.params := rfl
@[simp] theorem State.setFlags_draws (f : Flags) : (s.setFlags f).draws = s.draws := rfl
@[simp] theorem State.setFlags_hostLog (f : Flags) : (s.setFlags f).hostLog = s.hostLog := rfl
@[simp] theorem State.setFlags_reg (f : Flags) (x : Reg) : (s.setFlags f).reg x = s.reg x := rfl
@[simp] theorem State.setFlags_byteAt (f : Flags) (x : Nat) : (s.setFlags f).byteAt x = s.byteAt x := rfl
@[simp] theorem State.setFlags_flashAt (f : Flags) (x : Nat) : (s.setFlags f).flashAt x = s.flashAt x := rfl

/-! ### setSp -/

@[simp] theorem State.setSp_gpr (v : Word) : (s.setSp v).gpr = s.gpr := rfl
@[simp] theorem State.setSp_flags (v : Word) : (s.setSp v).flags = s.flags := rfl
@[simp] theorem State.setSp_sp (v : Word) : (s.setSp v).sp = v := rfl
@[simp] theorem State.setSp_pc (v : Word) : (s.setSp v).pc = s.pc := rfl
@[simp] theorem State.setSp_cycles (v : Word) : (s.setSp v).cycles = s.cycles := rfl
@[simp] theorem State.setSp_sleeping (v : Word) : (s.setSp v).sleeping = s.sleeping := rfl
@[simp] theorem State.setSp_pending (v : Word) : (s.setSp v).pending = s.pending := rfl
@[simp] theorem State.setSp_insideInterrupt (v : Word) : (s.setSp v).insideInterrupt = s.insideInterrupt := rfl
@[simp] theorem State.setSp_hasProgram (v : Word) : (s.setSp v).hasProgram = s.hasProgram := rfl
@[simp] theorem State.setSp_last (v : Word) : (s.setSp v).last = s.last := rfl
@[simp] theorem State.setSp_t3Triggered (v : Word) : (s.setSp v).t3Triggered = s.t3Triggered := rfl
@[simp] theorem State.setSp_data (v : Word) : (s.setSp v).data = s.data := rfl
@[simp] theorem State.setSp_eeprom (v : Word) : (s.setSp v).eeprom = s.eeprom := rfl
@[simp] theorem State.setSp_flash (v : Word) : (s.setSp v).flash = s.flash := rfl
@[simp] theorem State.setSp_params (v : Word) : (s.setSp v).params = s.params := rfl
@[simp] theorem State.setSp_draws (v : Word) : (s.setSp v).draws = s.draws := rfl
@[simp] theorem State.setSp_hostLog (v : Word) : (s.setSp v).hostLog = s.hostLog := rfl
@[simp] theorem State.setSp_reg (v : Word) (x : Reg) : (s.setSp v).reg x = s.reg x := rfl
@[simp] theorem State.setSp_byteAt (v : Word) (x : Nat) : (s.setSp v).byteAt x = s.byteAt x := rfl
@[simp] theorem State.setSp_flashAt (v : Word) (x : Nat) : (s.setSp v).flashAt x = s.flashAt x := rfl

/-! ### jump -/

@[simp] theorem State.jump_gpr (p : Word) (n : Nat) : (s.jump p n).gpr = s.gpr := rfl
@[simp] theorem State.jump_flags (p : Word) (n : Nat) : (s.jump p n).flags = s.flags := rfl
@[simp] theorem State.jump_sp (p : Word) (n : Nat) : (s.jump p n).sp = s.sp := rfl
@[simp] theorem State.jump_pc (p : Word) (n : Nat) : (s.jump p n).pc = p := rfl
@[simp] theorem State.jump_cycles (p : Word) (n : Nat) : (s.jump p n).cycles = s.cycles + n := rfl
@[simp] theorem State.jump_sleeping (p : Word) (n : Nat) : (s.jump p n).sleeping = s.sleeping := rfl
@[simp] theorem State.jump_pending (p : Word) (n : Nat) : (s.jump p n).pending = s.pending := rfl
@[simp] theorem State.jump_insideInterrupt (p : Word) (n : Nat) : (s.jump p n).insideInterrupt = s.insideInterrupt := rfl
@[simp] theorem State.jump_hasProgram (p : Word) (n : Nat) : (s.jump p n).hasProgram = s.hasProgram := rfl
@[simp] theorem State.jump_last (p : Word) (n : Nat) : (s.jump p n).last = s.last := rfl
@[simp] theorem State.jump_t3Triggered (p : Word) (n : Nat) : (s.jump p n).t3Triggered = s.t3Triggered := rfl
@[simp] theorem State.jump_data (p : Word) (n : Nat) : (s.jump p n).data = s.data := rfl
@[simp] theorem State.jump_eeprom (p : Word) (n : Nat) : (s.jump p n).eeprom = s.eeprom := rfl
@[simp] theorem State.jump_flash (p : Word) (n : Nat) : (s.jump p n).flash = s.flash := rfl
@[simp] theorem State.jump_params (p : Word) (n : Nat) : (s.jump p n).params = s.params := rfl
@[simp] theorem State.jump_draws (p : Word) (n : Nat) : (s.jump p n).draws = s.draws := rfl
@[simp] theorem State.jump_hostLog (p : Word) (n : Nat) : (s.jump p n).hostLog = s.hostLog := rfl
@[simp] theorem State.jump_reg (p : Word) (n : Nat) (x : Reg) : (s.jump p n).reg x = s.reg x := rfl
@[simp] theorem State.jump_byteAt (p : Word) (n : Nat) (x : Nat) : (s.jump p n).byteAt x = s.byteAt x := rfl
@[simp] theorem State.jump_flashAt (p : Word) (n : Nat) (x : Nat) : (s.jump p n).flashAt x = s.flashAt x := rfl

/-! ### advance -/

@[simp] theorem State.advance_gpr (w n : Nat) : (s.advance w n).gpr = s.gpr := rfl
@[simp] theorem State.advance_flags (w n : Nat) : (s.advance w n).flags = s.flags := rfl
@[simp] theorem State.advance_sp (w n : Nat) : (s.advance w n).sp = s.sp := rfl
@[simp] theorem State.advance_pc (w n : Nat) : (s.advance w n).pc = s.pc + BitVec.ofNat 16 w := rfl
@[simp] theorem State.advance_cycles (w n : Nat) : (s.advance w n).cycles = s.cycles + n := rfl
@[simp] theorem State.advance_sleeping (w n : Nat) : (s.advance w n).sleeping = s.sleeping := rfl
@[simp] theorem State.advance_pending (w n : Nat) : (s.advance w n).pending = s.pending := rfl
@[simp] theorem State.advance_insideInterrupt (w n : Nat) : (s.advance w n).insideInterrupt = s.insideInterrupt := rfl
@[simp] theorem State.advance_hasProgram (w n : Nat) : (s.advance w n).hasProgram = s.hasProgram := rfl
@[simp] theorem State.advance_last (w n : Nat) : (s.advance w n).last = s.last := rfl
@[simp] theorem State.advance_t3Triggered (w n : Nat) : (s.advance w n).t3Triggered = s.t3Triggered := rfl
@[simp] theorem State.advance_data (w n : Nat) : (s.advance w n).data = s.data := rfl
@[simp] theorem State.advance_eeprom (w n : Nat) : (s.advance w n).eeprom = s.eeprom := rfl
@[simp] theorem State.advance_flash (w n : Nat) : (s.advance w n).flash = s.flash := rfl
@[simp] theorem State.advance_params (w n : Nat) : (s.advance w n).params = s.params := rfl
@[simp] theorem State.advance_draws (w n : Nat) : (s.advance w n).draws = s.draws := rfl
@[simp] theorem State.advance_hostLog (w n : Nat) : (s.advance w n).hostLog = s.hostLog := rfl
@[simp] theorem State.advance_reg (w n : Nat) (x : Reg) : (s.advance w n).reg x = s.reg x := rfl
@[simp] theorem State.advance_byteAt (w n : Nat) (x : Nat) : (s.advance w n).byteAt x = s.byteAt x := rfl
@[simp] theorem State.advance_flashAt (w n : Nat) (x : Nat) : (s.advance w n).flashAt x = s.flashAt x := rfl

/-! ### setByte -/

@[simp] theorem State.setByte_gpr (a : Nat) (v : Byte) : (s.setByte a v).gpr = s.gpr := rfl
@[simp] theorem State.setByte_flags (a : Nat) (v : Byte) : (s.setByte a v).flags = s.flags := rfl
@[simp] theorem State.setByte_sp (a : Nat) (v : Byte) : (s.setByte a v).sp = s.sp := rfl
@[simp] theorem State.setByte_pc (a : Nat) (v : Byte) : (s.setByte a v).pc = s.pc := rfl
@[simp] theorem State.setByte_cycles (a : Nat) (v : Byte) : (s.setByte a v).cycles = s.cycles := rfl
@[simp] theorem State.setByte_sleeping (a : Nat) (v : Byte) : (s.setByte a v).sleeping = s.sleeping := rfl
@[simp] theorem State.setByte_pending (a : Nat) (v : Byte) : (s.setByte a v).pending = s.pending := rfl
@[simp] theorem State.setByte_insideInterrupt (a : Nat) (v : Byte) : (s.setByte a v).insideInterrupt = s.insideInterrupt := rfl
@[simp] theorem State.setByte_hasProgram (a : Nat) (v : Byte) : (s.setByte a v).hasProgram = s.hasProgram := rfl
@[simp] theorem State.setByte_last (a : Nat) (v : Byte) : (s.setByte a v).last = s.last := rfl
@[simp] theorem State.setByte_t3Triggered (a : Nat) (v : Byte) : (s.setByte a v).t3Triggered = s.t3Triggered := rfl
@[simp] theorem State.setByte_data (a : Nat) (v : Byte) : (s.setByte a v).data = s.data.write a v := rfl
@[simp] theorem State.setByte_eeprom (a : Nat) (v : Byte) : (s.setByte a v).eeprom = s.eeprom := rfl
@[simp] theorem State.setByte_flash (a : Nat) (v : Byte) : (s.setByte a v).flash = s.flash := rfl
@[simp] theorem State.setByte_params (a : Nat) (v : Byte) : (s.setByte a v).params = s.params := rfl
@[simp] theorem State.setByte_draws (a : Nat) (v : Byte) : (s.setByte a v).draws = s.draws := rfl
@[simp] theorem State.setByte_hostLog (a : Nat) (v : Byte) : (s.setByte a v).hostLog = s.hostLog := rfl
@[simp] theorem State.setByte_reg (a : Nat) (v : Byte) (x : Reg) : (s.setByte a v).reg x = s.reg x := rfl
@[simp] theorem State.setByte_flashAt (a : Nat) (v : Byte) (x : Nat) : (s.setByte a v).flashAt x = s.flashAt x := rfl

/-! ### setLastT0 -/

@[simp] theorem State.setLastT0_gpr (n : Nat) : (s.setLastT0 n).gpr = s.gpr := rfl
@[simp] theorem State.setLastT0_flags (n : Nat) : (s.setLastT0 n).flags = s.flags := rfl
@[simp] theorem State.setLastT0_sp (n : Nat) : (s.setLastT0 n).sp = s.sp := rfl
@[simp] theorem State.setLastT0_pc (n : Nat) : (s.setLastT0 n).pc = s.pc := rfl
@[simp] theorem State.setLastT0_cycles (n : Nat) : (s.setLastT0 n).cycles = s.cycles := rfl
@[simp] theorem State.setLastT0_sleeping (n : Nat) : (s.setLastT0 n).sleeping = s.sleeping := rfl
@[simp] theorem State.setLastT0_pending (n : Nat) : (s.setLastT0 n).pending = s.pending := rfl
@[simp] theorem State.setLastT0_insideInterrupt (n : Nat) : (s.setLastT0 n).insideInterrupt = s.insideInterrupt := rfl
@[simp] theorem State.setLastT0_hasProgram (n : Nat) : (s.setLastT0 n).hasProgram = s.hasProgram := rfl
@[simp] theorem State.setLastT0_last (n : Nat) : (s.setLastT0 n).last = { s.last with t0 := n } := rfl
@[simp] theorem State.setLastT0_t3Triggered (n : Nat) : (s.setLastT0 n).t3Triggered = s.t3Triggered := rfl
@[simp] theorem State.setLastT0_data (n : Nat) : (s.setLastT0 n).data = s.data := rfl
@[simp] theorem State.setLastT0_eeprom (n : Nat) : (s.setLastT0 n).eeprom = s.eeprom := rfl
@[simp] theorem State.setLastT0_flash (n : Nat) : (s.setLastT0 n).flash = s.flash := rfl
@[simp] theorem State.setLastT0_params (n : Nat) : (s.setLastT0 n).params = s.params := rfl
@[simp] theorem State.setLastT0_draws (n : Nat) : (s.setLastT0 n).draws = s.draws := rfl
@[simp] theorem State.setLastT0_hostLog (n : Nat) : (s.setLastT0 n).hostLog = s.hostLog := rfl
@[simp] theorem State.setLastT0_reg (n : Nat) (x : Reg) : (s.setLastT0 n).reg x = s.reg x := rfl
@[simp] theorem State.setLastT0_byteAt (n : Nat) (x : Nat) : (s.setLastT0 n).byteAt x = s.byteAt x := rfl
@[simp] theorem State.setLastT0_flashAt (n : Nat) (x : Nat) : (s.setLastT0 n).flashAt x = s.flashAt x := rfl

/-! ### setLastT3 -/

@[simp] theorem State.setLastT3_gpr (n : Nat) : (s.setLastT3 n).gpr = s.gpr := rfl
@[simp] theorem State.setLastT3_flags (n : Nat) : (s.setLastT3 n).flags = s.flags := rfl
@[simp] theorem State.setLastT3_sp (n : Nat) : (s.setLastT3 n).sp = s.sp := rfl
@[simp] theorem State.setLastT3_pc (n : Nat) : (s.setLastT3 n).pc = s.pc := rfl
@[simp] theorem State.setLastT3_cycles (n : Nat) : (s.setLastT3 n).cycles = s.cycles := rfl
@[simp] theorem State.setLastT3_sleeping (n : Nat) : (s.setLastT3 n).sleeping = s.sleeping := rfl
@[simp] theorem State.setLastT3_pending (n : Nat) : (s.setLastT3 n).pending = s.pending := rfl
@[simp] theorem State.setLastT3_insideInterrupt (n : Nat) : (s.setLastT3 n).insideInterrupt = s.insideInterrupt := rfl
@[simp] theorem State.setLastT3_hasProgram (n : Nat) : (s.setLastT3 n).hasProgram = s.hasProgram := rfl
@[simp] theorem State.setLastT3_last (n : Nat) : (s.setLastT3 n).last = { s.last with t3 := n } := rfl
@[simp] theorem State.setLastT3_t3Triggered (n : Nat) : (s.setLastT3 n).t3Triggered = s.t3Triggered := rfl
@[simp] theorem State.setLastT3_data (n : Nat) : (s.setLastT3 n).data = s.data := rfl
@[simp] theorem State.setLastT3_eeprom (n : Nat) : (s.setLastT3 n).eeprom = s.eeprom := rfl
@[simp] theorem State.setLastT3_flash (n : Nat) : (s.setLastT3 n).flash = s.flash := rfl
@[simp] theorem State.setLastT3_params (n : Nat) : (s.setLastT3 n).params = s.params := rfl
@[simp] theorem State.setLastT3_draws (n : Nat) : (s.setLastT3 n).draws = s.draws := rfl
@[simp] theorem State.setLastT3_hostLog (n : Nat) : (s.setLastT3 n).hostLog = s.hostLog := rfl
@[simp] theorem State.setLastT3_reg (n : Nat) (x : Reg) : (s.setLastT3 n).reg x = s.reg x := rfl
@[simp] theorem State.setLastT3_byteAt (n : Nat) (x : Nat) : (s.setLastT3 n).byteAt x = s.byteAt x := rfl
@[simp] theorem State.setLastT3_flashAt (n : Nat) (x : Nat) : (s.setLastT3 n).flashAt x = s.flashAt x := rfl

/-! ### setLastT4 -/

@[simp] theorem State.setLastT4_gpr (n : Nat) : (s.setLastT4 n).gpr = s.gpr := rfl
@[simp] theorem State.setLastT4_flags (n : Nat) : (s.setLastT4 n).flags = s.flags := rfl
@[simp] theorem State.setLastT4_sp (n : Nat) : (s.setLastT4 n).sp = s.sp := rfl
@[simp] theorem State.setLastT4_pc (n : Nat) : (s.setLastT4 n).pc = s.pc := rfl
@[simp] theorem State.setLastT4_cycles (n : Nat) : (s.setLastT4 n).cycles = s.cycles := rfl
@[simp] theorem State.setLastT4_sleeping (n : Nat) : (s.setLastT4 n).sleeping = s.sleeping := rfl
@[simp] theorem State.setLastT4_pending (n : Nat) : (s.setLastT4 n).pending = s.pending := rfl
@[simp] theorem State.setLastT4_insideInterrupt (n : Nat) : (s.setLastT4 n).insideInterrupt = s.insideInterrupt := rfl
@[simp] theorem State.setLastT4_hasProgram (n : Nat) : (s.setLastT4 n).hasProgram = s.hasProgram := rfl
@[simp] theorem State.setLastT4_last (n : Nat) : (s.setLastT4 n).last = { s.last with t4 := n } := rfl
@[simp] theorem State.setLastT4_t3Triggered (n : Nat) : (s.setLastT4 n).t3Triggered = s.t3Triggered := rfl
@[simp] theorem State.setLastT4_data (n : Nat) : (s.setLastT4 n).data = s.data := rfl
@[simp] theorem State.setLastT4_eeprom (n : Nat) : (s.setLastT4 n).eeprom = s.eeprom := rfl
@[simp] theorem State.setLastT4_flash (n : Nat) : (s.setLastT4 n).flash = s.flash := rfl
@[simp] theorem State.setLastT4_params (n : Nat) : (s.setLastT4 n).params = s.params := rfl
@[simp] theorem State.setLastT4_draws (n : Nat) : (s.setLastT4 n).draws = s.draws := rfl
@[simp] theorem State.setLastT4_hostLog (n : Nat) : (s.setLastT4 n).hostLog = s.hostLog := rfl
@[simp] theorem State.setLastT4_reg (n : Nat) (x : Reg) : (s.setLastT4 n).reg x = s.reg x := rfl
@[simp] theorem State.setLastT4_byteAt (n : Nat) (x : Nat) : (s.setLastT4 n).byteAt x = s.byteAt x := rfl
@[simp] theorem State.setLastT4_flashAt (n : Nat) (x : Nat) : (s.setLastT4 n).flashAt x = s.flashAt x := rfl

/-! ### setLastEewe -/

@[simp] theorem State.setLastEewe_gpr (n : Nat) : (s.setLastEewe n).gpr = s.gpr := rfl
@[simp] theorem State.setLastEewe_flags (n : Nat) : (s.setLastEewe n).flags = s.flags := rfl
@[simp] theorem State.setLastEewe_sp (n : Nat) : (s.setLastEewe n).sp = s.sp := rfl
@[simp] theorem State.setLastEewe_pc (n : Nat) : (s.setLastEewe n).pc = s.pc := rfl
@[simp] theorem State.setLastEewe_cycles (n : Nat) : (s.setLastEewe n).cycles = s.cycles := rfl
@[simp] theorem State.setLastEewe_sleeping (n : Nat) : (s.setLastEewe n).sleeping = s.sleeping := rfl
@[simp] theorem State.setLastEewe_pending (n : Nat) : (s.setLastEewe n).pending = s.pending := rfl
@[simp] theorem State.setLastEewe_insideInterrupt (n : Nat) : (s.setLastEewe n).insideInterrupt = s.insideInterrupt := rfl
@[simp] theorem State.setLastEewe_hasProgram (n : Nat) : (s.setLastEewe n).hasProgram = s.hasProgram := rfl
@[simp] theorem State.setLastEewe_last (n : Nat) : (s.setLastEewe n).last = { s.last with eewe := n } := rfl
@[simp] theorem State.setLastEewe_t3Triggered (n : Nat) : (s.setLastEewe n).t3Triggered = s.t3Triggered := rfl
@[simp] theorem State.setLastEewe_data (n : Nat) : (s.setLastEewe n).data = s.data := rfl
@[simp] theorem State.setLastEewe_eeprom (n : Nat) : (s.setLastEewe n).eeprom = s.eeprom := rfl
@[simp] theorem State.setLastEewe_flash (n : Nat) : (s.setLastEewe n).flash = s.flash := rfl
@[simp] theorem State.setLastEewe_params (n : Nat) : (s.setLastEewe n).params = s.params := rfl
@[simp] theorem State.setLastEewe_draws (n : Nat) : (s.setLastEewe n).draws = s.draws := rfl
@[simp] theorem State.setLastEewe_hostLog (n : Nat) : (s.setLastEewe n).hostLog = s.hostLog := rfl
@[simp] theorem State.setLastEewe_reg (n : Nat) (x : Reg) : (s.setLastEewe n).reg x = s.reg x := rfl
@[simp] theorem State.setLastEewe_byteAt (n : Nat) (x : Nat) : (s.setLastEewe n).byteAt x = s.byteAt x := rfl
@[simp] theorem State.setLastEewe_flashAt (n : Nat) (x : Nat) : (s.setLastEewe n).flashAt x = s.flashAt x := rfl

/-! ### setLastPll -/

@[simp] theorem State.setLastPll_gpr (n : Nat) : (s.setLastPll n).gpr = s.gpr := rfl
@[simp] theorem State.setLastPll_flags (n : Nat) : (s.setLastPll n).flags = s.flags := rfl
@[simp] theorem State.setLastPll_sp (n : Nat) : (s.setLastPll n).sp = s.sp := rfl
@[simp] theorem State.setLastPll_pc (n : Nat) : (s.setLastPll n).pc = s.pc := rfl
@[simp] theorem State.setLastPll_cycles (n : Nat) : (s.setLastPll n).cycles = s.cycles := rfl
@[simp] theorem State.setLastPll_sleeping (n : Nat) : (s.setLastPll n).sleeping = s.sleeping := rfl
@[simp] theorem State.setLastPll_pending (n : Nat) : (s.setLastPll n).pending = s.pending := rfl
@[simp] theorem State.setLastPll_insideInterrupt (n : Nat) : (s.setLastPll n).insideInterrupt = s.insideInterrupt := rfl
@[simp] theorem State.setLastPll_hasProgram (n : Nat) : (s.setLastPll n).hasProgram = s.hasProgram := rfl
@[simp] theorem State.setLastPll_last (n : Nat) : (s.setLastPll n).last = { s.last with pll := n } := rfl
@[simp] theorem State.setLastPll_t3Triggered (n : Nat) : (s.setLastPll n).t3Triggered = s.t3Triggered := rfl
@[simp] theorem State.setLastPll_data (n : Nat) : (s.setLastPll n).data = s.data := rfl
@[simp] theorem State.setLastPll_eeprom (n : Nat) : (s.setLastPll n).eeprom = s.eeprom := rfl
@[simp] theorem State.setLastPll_flash (n : Nat) : (s.setLastPll n).flash = s.flash := rfl
@[simp] theorem State.setLastPll_params (n : Nat) : (s.setLastPll n).params = s.params := rfl
@[simp] theorem State.setLastPll_draws (n : Nat) : (s.setLastPll n).draws = s.draws := rfl
@[simp] theorem State.setLastPll_hostLog (n : Nat) : (s.setLastPll n).hostLog = s.hostLog := rfl
@[simp] theorem State.setLastPll_reg (n : Nat) (x : Reg) : (s.setLastPll n).reg x = s.reg x := rfl
@[simp] theorem State.setLastPll_byteAt (n : Nat) (x : Nat) : (s.setLastPll n).byteAt x = s.byteAt x := rfl
@[simp] theorem State.setLastPll_flashAt (n : Nat) (x : Nat) : (s.setLastPll n).flashAt x = s.flashAt x := rfl

/-! ### setLastAdc -/

@[simp] theorem State.setLastAdc_gpr (n : Nat) : (s.setLastAdc n).gpr = s.gpr := rfl
@[simp] theorem State.setLastAdc_flags (n : Nat) : (s.setLastAdc n).flags = s.flags := rfl
@[simp] theorem State.setLastAdc_sp (n : Nat) : (s.setLastAdc n).sp = s.sp := rfl
@[simp] theorem State.setLastAdc_pc (n : Nat) : (s.setLastAdc n).pc = s.pc := rfl
@[simp] theorem State.setLastAdc_cycles (n : Nat) : (s.setLastAdc n).cycles = s.cycles := rfl
@[simp] theorem State.setLastAdc_sleeping (n : Nat) : (s.setLastAdc n).sleeping = s.sleeping := rfl
@[simp] theorem State.setLastAdc_pending (n : Nat) : (s.setLastAdc n).pending = s.pending := rfl
@[simp] theorem State.setLastAdc_insideInterrupt (n : Nat) : (s.setLastAdc n).insideInterrupt = s.insideInterrupt := rfl
@[simp] theorem State.setLastAdc_hasProgram (n : Nat) : (s.setLastAdc n).hasProgram = s.hasProgram := rfl
@[simp] theorem State.setLastAdc_last (n : Nat) : (s.setLastAdc n).last = { s.last with adc := n } := rfl
@[simp] theorem State.setLastAdc_t3Triggered (n : Nat) : (s.setLastAdc n).t3Triggered = s.t3Triggered := rfl
@[simp] theorem State.setLastAdc_data (n : Nat) : (s.setLastAdc n).data = s.data := rfl
@[simp] theorem State.setLastAdc_eeprom (n : Nat) : (s.setLastAdc n).eeprom = s.eeprom := rfl
@[simp] theorem State.setLastAdc_flash (n : Nat) : (s.setLastAdc n).flash = s.flash := rfl
@[simp] theorem State.setLastAdc_params (n : Nat) : (s.setLastAdc n).params = s.params := rfl
@[simp] theorem State.setLastAdc_draws (n : Nat) : (s.setLastAdc n).draws = s.draws := rfl
@[simp] theorem State.setLastAdc_hostLog (n : Nat) : (s.setLastAdc n).hostLog = s.hostLog := rfl
@[simp] theorem State.setLastAdc_reg (n : Nat) (x : Reg) : (s.setLastAdc n).reg x = s.reg x := rfl
@[simp] theorem State.setLastAdc_byteAt (n : Nat) (x : Nat) : (s.setLastAdc n).byteAt x = s.byteAt x := rfl
@[simp] theorem State.setLastAdc_flashAt (n : Nat) (x : Nat) : (s.setLastAdc n).flashAt x = s.flashAt x := rfl

/-! ### setTcnt3 -/

@[simp] theorem State.setTcnt3_gpr (w : Word) : (s.setTcnt3 w).gpr = s.gpr := rfl
@[simp] theorem State.setTcnt3_flags (w : Word) : (s.setTcnt3 w).flags = s.flags := rfl
@[simp] theorem State.setTcnt3_sp (w : Word) : (s.setTcnt3 w).sp = s.sp := rfl
@[simp] theorem State.setTcnt3_pc (w : Word) : (s.setTcnt3 w).pc = s.pc := rfl
@[simp] theorem State.setTcnt3_cycles (w : Word) : (s.setTcnt3 w).cycles = s.cycles := rfl
@[simp] theorem State.setTcnt3_sleeping (w : Word) : (s.setTcnt3 w).sleeping = s.sleeping := rfl
@[simp] theorem State.setTcnt3_pending (w : Word) : (s.setTcnt3 w).pending = s.pending := rfl
@[simp] theorem State.setTcnt3_insideInterrupt (w : Word) : (s.setTcnt3 w).insideInterrupt = s.insideInterrupt := rfl
@[simp] theorem State.setTcnt3_hasProgram (w : Word) : (s.setTcnt3 w).hasProgram = s.hasProgram := rfl
@[simp] theorem State.setTcnt3_last (w : Word) : (s.setTcnt3 w).last = s.last := rfl
@[simp] theorem State.setTcnt3_t3Triggered (w : Word) : (s.setTcnt3 w).t3Triggered = s.t3Triggered := rfl
@[simp] theorem State.setTcnt3_eeprom (w : Word) : (s.setTcnt3 w).eeprom = s.eeprom := rfl
@[simp] theorem State.setTcnt3_flash (w : Word) : (s.setTcnt3 w).flash = s.flash := rfl
@[simp] theorem State.setTcnt3_params (w : Word) : (s.setTcnt3 w).params = s.params := rfl
@[simp] theorem State.setTcnt3_draws (w : Word) : (s.setTcnt3 w).draws = s.draws := rfl
@[simp] theorem State.setTcnt3_hostLog (w : Word) : (s.setTcnt3 w).hostLog = s.hostLog := rfl
@[simp] theorem State.setTcnt3_reg (w : Word) (x : Reg) : (s.setTcnt3 w).reg x = s.reg x := rfl
@[simp] theorem State.setTcnt3_flashAt (w : Word) (x : Nat) : (s.setTcnt3 w).flashAt x = s.flashAt x := rfl

/-! ### setTcnt4 -/

@[simp] theorem State.setTcnt4_gpr (n : Nat) : (s.setTcnt4 n).gpr = s.gpr := rfl
@[simp] theorem State.setTcnt4_flags (n : Nat) : (s.setTcnt4 n).flags = s.flags := rfl
@[simp] theorem State.setTcnt4_sp (n : Nat) : (s.setTcnt4 n).sp = s.sp := rfl
@[simp] theorem State.setTcnt4_pc (n : Nat) : (s.setTcnt4 n).pc = s.pc := rfl
@[simp] theorem State.setTcnt4_cycles (n : Nat) : (s.setTcnt4 n).cycles = s.cycles := rfl
@[simp] theorem State.setTcnt4_sleeping (n : Nat) : (s.setTcnt4 n).sleeping = s.sleeping := rfl
@[simp] theorem State.setTcnt4_pending (n : Nat) : (s.setTcnt4 n).pending = s.pending := rfl
@[simp] theorem State.setTcnt4_insideInterrupt (n : Nat) : (s.setTcnt4 n).insideInterrupt = s.insideInterrupt := rfl
@[simp] theorem State.setTcnt4_hasProgram (n : Nat) : (s.setTcnt4 n).hasProgram = s.hasProgram := rfl
@[simp] theorem State.setTcnt4_last (n : Nat) : (s.setTcnt4 n).last = s.last := rfl
@[simp] theorem State.setTcnt4_t3Triggered (n : Nat) : (s.setTcnt4 n).t3Triggered = s.t3Triggered := rfl
@[simp] theorem State.setTcnt4_eeprom (n : Nat) : (s.setTcnt4 n).eeprom = s.eeprom := rfl
@[simp] theorem State.setTcnt4_flash (n : Nat) : (s.setTcnt4 n).flash = s.flash := rfl
@[simp] theorem State.setTcnt4_params (n : Nat) : (s.setTcnt4 n).params = s.params := rfl
@[simp] theorem State.setTcnt4_draws (n : Nat) : (s.setTcnt4 n).draws = s.draws := rfl
@[simp] theorem State.setTcnt4_hostLog (n : Nat) : (s.setTcnt4 n).hostLog = s.hostLog := rfl
@[simp] theorem State.setTcnt4_reg (n : Nat) (x : Reg) : (s.setTcnt4 n).reg x = s.reg x := rfl
@[simp] theorem State.setTcnt4_flashAt (n : Nat) (x : Nat) : (s.setTcnt4 n).flashAt x = s.flashAt x := rfl

/-! ### callHost -/

@[simp] theorem State.callHost_gpr (e : HostEvent) : (s.callHost e).gpr = s.gpr := rfl
@[simp] theorem State.callHost_flags (e : HostEvent) : (s.callHost e).flags = s.flags := rfl
@[simp] theorem State.callHost_sp (e : HostEvent) : (s.callHost e).sp = s.sp := rfl
@[simp] theorem State.callHost_pc (e : HostEvent) : (s.callHost e).pc = s.pc := rfl
@[simp] theorem State.callHost_cycles (e : HostEvent) : (s.callHost e).cycles = s.cycles := rfl
@[simp] theorem State.callHost_sleeping (e : HostEvent) : (s.callHost e).sleeping = s.sleeping := rfl
@[simp] theorem State.callHost_pending (e : HostEvent) : (s.callHost e).pending = s.pending := rfl
@[simp] theorem State.callHost_insideInterrupt (e : HostEvent) : (s.callHost e).insideInterrupt = s.insideInterrupt := rfl
@[simp] theorem State.callHost_hasProgram (e : HostEvent) : (s.callHost e).hasProgram = s.hasProgram := rfl
@[simp] theorem State.callHost_last (e : HostEvent) : (s.callHost e).last = s.last := rfl
@[simp] theorem State.callHost_t3Triggered (e : HostEvent) : (s.callHost e).t3Triggered = s.t3Triggered := rfl
@[simp] theorem State.callHost_data (e : HostEvent) : (s.callHost e).data = s.data := rfl
@[simp] theorem State.callHost_eeprom (e : HostEvent) : (s.callHost e).eeprom = s.eeprom := rfl
@[simp] theorem State.callHost_flash (e : HostEvent) : (s.callHost e).flash = s.flash := rfl
@[simp] theorem State.callHost_params (e : HostEvent) : (s.callHost e).params = s.params := rfl
@[simp] theorem State.callHost_draws (e : HostEvent) : (s.callHost e).draws = s.draws := rfl
@[simp] theorem State.callHost_hostLog (e : HostEvent) : (s.callHost e).hostLog = e :: s.hostLog := rfl
@[simp] theorem State.callHost_reg (e : HostEvent) (x : Reg) : (s.callHost e).reg x = s.reg x := rfl
@[simp] theorem State.callHost_byteAt (e : HostEvent) (x : Nat) : (s.callHost e).byteAt x = s.byteAt x := rfl
@[simp] theorem State.callHost_flashAt (e : HostEvent) (x : Nat) : (s.callHost e).flashAt x = s.flashAt x := rfl

/-! ### notify -/

@[simp] theorem State.notify_gpr (e : HostEvent) : (s.notify e).gpr = s.gpr := rfl
@[simp] theorem State.notify_flags (e : HostEvent) : (s.notify e).flags = s.flags := rfl
@[simp] theorem State.notify_sp (e : HostEvent) : (s.notify e).sp = s.sp := rfl
@[simp] theorem State.notify_pc (e : HostEvent) : (s.notify e).pc = s.pc := rfl
@[simp] theorem State.notify_cycles (e : HostEvent) : (s.notify e).cycles = s.cycles := rfl
@[simp] theorem State.notify_sleeping (e : HostEvent) : (s.notify e).sleeping = s.sleeping := rfl
@[simp] theorem State.notify_pending (e : HostEvent) : (s.notify e).pending = s.pending := rfl
@[simp] theorem State.notify_insideInterrupt (e : HostEvent) : (s.notify e).insideInterrupt = s.insideInterrupt := rfl
@[simp] theorem State.notify_hasProgram (e : HostEvent) : (s.notify e).hasProgram = s.hasProgram := rfl
@[simp] theorem State.notify_last (e : HostEvent) : (s.notify e).last = s.last := rfl
@[simp] theorem State.notify_t3Triggered (e : HostEvent) : (s.notify e).t3Triggered = s.t3Triggered := rfl
@[simp] theorem State.notify_data (e : HostEvent) : (s.notify e).data = s.data := rfl
@[simp] theorem State.notify_eeprom (e : HostEvent) : (s.notify e).eeprom = s.eeprom := rfl
@[simp] theorem State.notify_flash (e : HostEvent) : (s.notify e).flash = s.flash := rfl
@[simp] theorem State.notify_params (e : HostEvent) : (s.notify e).params = s.params := rfl
@[simp] theorem State.notify_draws (e : HostEvent) : (s.notify e).draws = s.draws := rfl
@[simp] theorem State.notify_hostLog (e : HostEvent) :
    (s.notify e).hostLog = if s.params.debugHooks then e :: s.hostLog else s.hostLog := rfl
@[simp] theorem State.notify_reg (e : HostEvent) (x : Reg) : (s.notify e).reg x = s.reg x := rfl
@[simp] theorem State.notify_byteAt (e : HostEvent) (x : Nat) : (s.notify e).byteAt x = s.byteAt x := rfl
@[simp] theorem State.notify_flashAt (e : HostEvent) (x : Nat) : (s.notify e).flashAt x = s.flashAt x := rfl

/-! ### Accessors -/

@[simp] theorem State.reg_setReg_same (i : Reg) (v : Byte) : (s.setReg i v).reg i = v := by
  simp [State.reg, State.setReg]

theorem State.reg_setReg_other {i r : Reg} (v : Byte) (h : r ≠ i) : (s.setReg i v).reg r = s.reg r := by
  have : ¬ i.val = r.val := fun hv => h (Fin.ext hv.symm)
  simp [State.reg, State.setReg, this]

/-- Both laws of a register write as one equation. -/
theorem State.reg_setReg (i r : Reg) (v : Byte) : (s.setReg i v).reg r = if r = i then v else s.reg r := by
  split
  · next h => rw [h, State.reg_setReg_same]
  · next h => exact State.reg_setReg_other s v h

/-- A pair write, register by register. -/
theorem State.reg_setPair (i r : Reg) (v : Word) :
    (s.setPair i v).reg r = if r = i + 1 then hi8 v else if r = i then lo8 v else s.reg r := by
  simp only [State.setPair, State.reg_setReg]

theorem State.byteAt_setByte (a b : Nat) (v : Byte) : (s.setByte a v).byteAt b = if b = a then v else s.byteAt b :=
  Memory.read_write s.data a b v

@[simp] theorem State.byteAt_setByte_same (a : Nat) (v : Byte) : (s.setByte a v).byteAt a = v :=
  Memory.read_write_same s.data a v

theorem State.byteAt_setByte_other {a b : Nat} (v : Byte) (h : b ≠ a) : (s.setByte a v).byteAt b = s.byteAt b :=
  Memory.read_write_other s.data v h

end Sys2Proof.Machine
end

