-- ==== Sys2Proof/Laws/Frames.lean ====
section
/-! SUPPORT. Two frames as equations of states, with their composition: what a timer catch-up or a refresh may change, and
what a store may change. -/

namespace Sys2Proof.Machine

/-- Only stored data bytes, timestamps and timer3's memo differ. -/
abbrev quiet (s t : State) : Prop := t = { s with data := t.data, last := t.last, t3Triggered := t.t3Triggered }

theorem quiet_refl (s : State) : quiet s s := rfl

theorem quiet_trans {s t u : State} (h : quiet s t) (k : quiet t u) : quiet s u := by
  unfold quiet at h k ⊢
  calc u = { t with data := u.data, last := u.last, t3Triggered := u.t3Triggered } := k
    _ = { ({ s with data := t.data, last := t.last, t3Triggered := t.t3Triggered } : State) with
          data := u.data, last := u.last, t3Triggered := u.t3Triggered } :=
        congrArg (fun x : State => { x with data := u.data, last := u.last, t3Triggered := u.t3Triggered }) h

section
variable {s t : State} (h : quiet s t)
include h

theorem quiet_gpr : t.gpr = s.gpr := (congrArg State.gpr h).trans rfl
theorem quiet_reg (r : Reg) : t.reg r = s.reg r := (congrArg (fun x : State => x.reg r) h).trans rfl
theorem quiet_flags : t.flags = s.flags := (congrArg State.flags h).trans rfl
theorem quiet_sp : t.sp = s.sp := (congrArg State.sp h).trans rfl
theorem quiet_pc : t.pc = s.pc := (congrArg State.pc h).trans rfl
theorem quiet_cycles : t.cycles = s.cycles := (congrArg State.cycles h).trans rfl
theorem quiet_sleeping : t.sleeping = s.sleeping := (congrArg State.sleeping h).trans rfl
theorem quiet_pending : t.pending = s.pending := (congrArg State.pending h).trans rfl
theorem quiet_insideInterrupt : t.insideInterrupt = s.insideInterrupt := (congrArg State.insideInterrupt h).trans rfl
theorem quiet_hasProgram : t.hasProgram = s.hasProgram := (congrArg State.hasProgram h).trans rfl
theorem quiet_eeprom : t.eeprom = s.eeprom := (congrArg State.eeprom h).trans rfl
theorem quiet_flash : t.flash = s.flash := (congrArg State.flash h).trans rfl
theorem quiet_params : t.params = s.params := (congrArg State.params h).trans rfl
theorem quiet_draws : t.draws = s.draws := (congrArg State.draws h).trans rfl
theorem quiet_hostLog : t.hostLog = s.hostLog := (congrArg State.hostLog h).trans rfl

end

/-- What a store through `MemWrite` may change: nothing of the program flow, the scheduler, flash or the parameters. -/
abbrev storeFrame (s t : State) : Prop :=
  t = { s with gpr := t.gpr, flags := t.flags, sp := t.sp, data := t.data, eeprom := t.eeprom, last := t.last,
               draws := t.draws, hostLog := t.hostLog }

theorem storeFrame_refl (s : State) : storeFrame s s := rfl

theorem storeFrame_trans {s t u : State} (h : storeFrame s t) (k : storeFrame t u) : storeFrame s u := by
  unfold storeFrame at h k ⊢
  calc u = { t with gpr := u.gpr, flags := u.flags, sp := u.sp, data := u.data, eeprom := u.eeprom, last := u.last,
                    draws := u.draws, hostLog := u.hostLog } := k
    _ = { ({ s with gpr := t.gpr, flags := t.flags, sp := t.sp, data := t.data, eeprom := t.eeprom, last := t.last,
                    draws := t.draws, hostLog := t.hostLog } : State) with
          gpr := u.gpr, flags := u.flags, sp := u.sp, data := u.data, eeprom := u.eeprom, last := u.last,
          draws := u.draws, hostLog := u.hostLog } :=
        congrArg (fun x : State => { x with gpr := u.gpr, flags := u.flags, sp := u.sp, data := u.data,
                                            eeprom := u.eeprom, last := u.last, draws := u.draws, hostLog := u.hostLog }) h

section
variable {s t : State} (h : storeFrame s t)
include h

theorem storeFrame_pc : t.pc = s.pc := (congrArg State.pc h).trans rfl
theorem storeFrame_cycles : t.cycles = s.cycles := (congrArg State.cycles h).trans rfl
theorem storeFrame_sleeping : t.sleeping = s.sleeping := (congrArg State.sleeping h).trans rfl
theorem storeFrame_pending : t.pending = s.pending := (congrArg State.pending h).trans rfl
theorem storeFrame_insideInterrupt : t.insideInterrupt = s.insideInterrupt := (congrArg State.insideInterrupt h).trans rfl
theorem storeFrame_hasProgram : t.hasProgram = s.hasProgram := (congrArg State.hasProgram h).trans rfl
theorem storeFrame_t3Triggered : t.t3Triggered = s.t3Triggered := (congrArg State.t3Triggered h).trans rfl
theorem storeFrame_flash : t.flash = s.flash := (congrArg State.flash h).trans rfl
theorem storeFrame_params : t.params = s.params := (congrArg State.params h).trans rfl

end

end Sys2Proof.Machine
end

