-- ==== Sys2Proof/Laws/Timers.lean ====
section
/-! SUPPORT. What a timer catch-up answers, when it answers, and what it leaves alone (spec/60_exceptions.md R312, R318,
R322, R326). -/

namespace Sys2Proof.Machine

/-! ### Divisors -/

/-- The prescaler table has an entry exactly for the selects below 6 (R311). -/
theorem prescale_isSome (cs : Nat) : (prescale cs).isSome = decide (cs < 6) := by
  unfold prescale
  by_cases h : cs < 6 <;> simp [h]

theorem divisor0_eq_ok {cs d : Nat} : divisor0 cs = .ok d ↔ prescale cs = some d := by
  unfold divisor0
  cases prescale cs <;> simp

/-- Timer0's divisor is defined exactly for the selects below 6. -/
theorem divisor0_ok {cs : Nat} (h : cs < 6) : ∃ d, divisor0 cs = .ok d := by
  have := prescale_isSome cs
  rw [decide_eq_true h] at this
  obtain ⟨d, hd⟩ := Option.isSome_iff_exists.mp this
  exact ⟨d, divisor0_eq_ok.mpr hd⟩

theorem divisor3_eq_ok {s : State} {d : Nat} :
    divisor3 s = .ok d ↔ normalMode3 s = true ∧ prescale (clockSelect (s.byteAt aTCCR3B)) = some d := by
  unfold divisor3
  by_cases h : normalMode3 s = true
  · cases hp : prescale (clockSelect (s.byteAt aTCCR3B)) <;> simp [h]
  · simp [h]

/-! ### Timer0 -/

/-- `advance0` spelled by cases: stopped, no tick yet, or some ticks. -/
theorem advance0_cases (div now : Nat) (s : State) :
    (div = 0 ∧ advance0 div now s = s.setLastT0 now)
      ∨ (div ≠ 0 ∧ (now - s.last.t0) / div = 0 ∧ advance0 div now s = s)
      ∨ (div ≠ 0 ∧ (now - s.last.t0) / div ≠ 0
          ∧ advance0 div now s =
            (let sum := (s.byteAt aTCNT0).toNat + (now - s.last.t0) / div
             let t := s.setByte aTCNT0 (BitVec.ofNat 8 sum)
             (if 256 ≤ sum then setTov0 t else t).setLastT0 (s.last.t0 + (now - s.last.t0) / div * div))) := by
  unfold advance0
  by_cases hd : div = 0
  · exact .inl ⟨hd, if_pos hd⟩
  · rw [if_neg hd]
    by_cases ht : (now - s.last.t0) / div = 0
    · exact .inr (.inl ⟨hd, ht, if_pos ht⟩)
    · exact .inr (.inr ⟨hd, ht, if_neg ht⟩)

theorem quiet_setByte (s : State) (a : Nat) (v : Byte) : quiet s (s.setByte a v) := rfl
theorem quiet_setTov0 (s : State) : quiet s (setTov0 s) := rfl
theorem quiet_setLastT0 (s : State) (n : Nat) : quiet s (s.setLastT0 n) := rfl
theorem quiet_setLastT3 (s : State) (n : Nat) : quiet s (s.setLastT3 n) := rfl
theorem quiet_setLastT4 (s : State) (n : Nat) : quiet s (s.setLastT4 n) := rfl

/-- Timer0's catch-up changes stored bytes and its baseline only. -/
theorem advance0_quiet (div now : Nat) (s : State) : quiet s (advance0 div now s) := by
  rcases advance0_cases div now s with ⟨-, h⟩ | ⟨-, -, h⟩ | ⟨-, -, h⟩
  · rw [h]; rfl
  · rw [h]
  · rw [h]; dsimp only; split <;> rfl

/-- Of the bytes, TCNT0 and TIFR0 only. -/
theorem advance0_byteAt (div now : Nat) (s : State) {a : Nat} (h0 : a ≠ aTCNT0) (h1 : a ≠ aTIFR0) :
    (advance0 div now s).byteAt a = s.byteAt a := by
  rcases advance0_cases div now s with ⟨-, h⟩ | ⟨-, -, h⟩ | ⟨-, -, h⟩
  · rw [h]; rfl
  · rw [h]
  · rw [h]; dsimp only
    split <;> simp [setTov0, State.byteAt_setByte, h0, h1]

/-- Of the timestamps, `last_t0` only, and it never passes `now`. -/
theorem advance0_last (div now : Nat) (s : State) :
    (advance0 div now s).last = { s.last with t0 := (advance0 div now s).last.t0 }
      ∧ (s.last.t0 ≤ now → (advance0 div now s).last.t0 ≤ now) := by
  rcases advance0_cases div now s with ⟨-, h⟩ | ⟨-, -, h⟩ | ⟨-, -, h⟩
  · rw [h]; exact ⟨rfl, fun _ => Nat.le_refl _⟩
  · rw [h]; exact ⟨rfl, id⟩
  · rw [h]; dsimp only
    have := Nat.div_mul_le_self (now - s.last.t0) div
    constructor
    · split <;> rfl
    · intro hl
      have : s.last.t0 + (now - s.last.t0) / div * div ≤ now := by omega
      split <;> simpa using this

/-- Timer3's memo is not touched. -/
theorem advance0_memo (div now : Nat) (s : State) : (advance0 div now s).t3Triggered = s.t3Triggered := by
  rcases advance0_cases div now s with ⟨-, h⟩ | ⟨-, -, h⟩ | ⟨-, -, h⟩
  · rw [h]; rfl
  · rw [h]
  · rw [h]; dsimp only; split <;> rfl

theorem catchUp0At_eq_ok {cs now : Nat} {s t : State} :
    catchUp0At cs now s = .ok t ↔ ∃ d, prescale cs = some d ∧ t = advance0 d now s := by
  unfold catchUp0At
  rw [bind_eq_ok]
  simp only [divisor0_eq_ok, Except.ok.injEq, eq_comm (a := t)]

/-- Catching timer0 up answers exactly where its select is below 6. -/
theorem catchUp0At_ok {cs : Nat} (now : Nat) (s : State) (h : cs < 6) : ∃ t, catchUp0At cs now s = .ok t := by
  obtain ⟨d, hd⟩ := divisor0_ok h
  exact ⟨advance0 d now s, catchUp0At_eq_ok.mpr ⟨d, divisor0_eq_ok.mp hd, rfl⟩⟩

theorem catchUp0At_select {cs now : Nat} {s t : State} (h : catchUp0At cs now s = .ok t) : cs < 6 := by
  obtain ⟨d, hd, -⟩ := catchUp0At_eq_ok.mp h
  have := prescale_isSome cs
  rw [hd] at this
  simpa using this.symm

/-! ### Timer3 -/

/-- `advance3` spelled by cases: stopped, no tick yet, or some ticks with or without a match among them. -/
theorem advance3_cases (div now : Nat) (s : State) :
    (div = 0 ∧ advance3 div now s = s.setLastT3 now)
      ∨ (div ≠ 0 ∧ (now - s.last.t3) / div = 0 ∧ advance3 div now s = s)
      ∨ (div ≠ 0 ∧ (now - s.last.t3) / div ≠ 0
          ∧ ∃ hit w, hit = decide (firstMatch 65536 s.tcnt3.toNat s.ocr3a.toNat ≤ (now - s.last.t3) / div)
            ∧ w = BitVec.ofNat 16 (s.tcnt3.toNat + (now - s.last.t3) / div)
            ∧ advance3 div now s =
              { ((if hit then setOcf3a s else s).setTcnt3 w).setLastT3 (s.last.t3 + (now - s.last.t3) / div * div) with
                t3Triggered := hit }) := by
  unfold advance3
  by_cases hd : div = 0
  · exact .inl ⟨hd, if_pos hd⟩
  · rw [if_neg hd]
    by_cases ht : (now - s.last.t3) / div = 0
    · exact .inr (.inl ⟨hd, ht, if_pos ht⟩)
    · refine .inr (.inr ⟨hd, ht, _, _, rfl, rfl, ?_⟩)
      exact if_neg ht

theorem quiet_advance3 (div now : Nat) (s : State) : quiet s (advance3 div now s) := by
  rcases advance3_cases div now s with ⟨-, h⟩ | ⟨-, -, h⟩ | ⟨-, -, hit, w, -, -, h⟩
  · rw [h]; rfl
  · rw [h]
  · have hq : quiet s (if hit then setOcf3a s else s) := by cases hit <;> rfl
    generalize (if hit then setOcf3a s else s) = x at h hq
    generalize s.last.t3 + (now - s.last.t3) / div * div = n at h
    rw [h]
    exact quiet_trans hq rfl

/-- Of the bytes, TCNT3L, TCNT3H and TIFR3 only. -/
theorem advance3_byteAt (div now : Nat) (s : State) {a : Nat} (h0 : a ≠ aTCNT3L) (h1 : a ≠ aTCNT3H) (h2 : a ≠ aTIFR3) :
    (advance3 div now s).byteAt a = s.byteAt a := by
  rcases advance3_cases div now s with ⟨-, h⟩ | ⟨-, -, h⟩ | ⟨-, -, hit, w, -, -, h⟩
  · rw [h]; rfl
  · rw [h]
  · have e : (advance3 div now s).byteAt a = ((if hit then setOcf3a s else s).setTcnt3 w).byteAt a := by rw [h]; rfl
    rw [e]
    cases hit <;> simp [State.setTcnt3, setOcf3a, State.byteAt_setByte, h0, h1, h2]

/-- Of the timestamps, `last_t3` only, and it never passes `now`. -/
theorem advance3_last (div now : Nat) (s : State) :
    (advance3 div now s).last = { s.last with t3 := (advance3 div now s).last.t3 }
      ∧ (s.last.t3 ≤ now → (advance3 div now s).last.t3 ≤ now) := by
  rcases advance3_cases div now s with ⟨-, h⟩ | ⟨-, -, h⟩ | ⟨-, -, hit, w, -, -, h⟩
  · rw [h]; exact ⟨rfl, fun _ => Nat.le_refl _⟩
  · rw [h]; exact ⟨rfl, id⟩
  · have e : (advance3 div now s).last = { s.last with t3 := s.last.t3 + (now - s.last.t3) / div * div } := by
      rw [h]; cases hit <;> rfl
    rw [e]
    have := Nat.div_mul_le_self (now - s.last.t3) div
    exact ⟨rfl, fun hl => by dsimp only; omega⟩

theorem catchUp3_eq_ok {now : Nat} {s t : State} :
    catchUp3 now s = .ok t ↔
      normalMode3 s = true ∧ ∃ d, prescale (clockSelect (s.byteAt aTCCR3B)) = some d ∧ t = advance3 d now s := by
  unfold catchUp3
  rw [bind_eq_ok]
  simp only [divisor3_eq_ok, Except.ok.injEq]
  constructor
  · rintro ⟨d, ⟨hm, hd⟩, rfl⟩; exact ⟨hm, d, hd, rfl⟩
  · rintro ⟨hm, d, hd, rfl⟩; exact ⟨d, ⟨hm, hd⟩, rfl⟩

/-! ### Timer4 -/

theorem match4_quiet (cmp m old ticks : Nat) (s : State) : quiet s (match4 cmp m old ticks s) := by
  unfold match4
  dsimp only
  split
  · split
    · split <;> rfl
    · rfl
  · rfl

theorem match4_last (cmp m old ticks : Nat) (s : State) : (match4 cmp m old ticks s).last = s.last := by
  unfold match4
  dsimp only
  split
  · split
    · split <;> rfl
    · rfl
  · rfl

theorem match4_memo (cmp m old ticks : Nat) (s : State) : (match4 cmp m old ticks s).t3Triggered = s.t3Triggered := by
  unfold match4
  dsimp only
  split
  · split
    · split <;> rfl
    · rfl
  · rfl

/-- Of the bytes, TIFR4 and PORTC only. -/
theorem match4_byteAt (cmp m old ticks : Nat) (s : State) {a : Nat} (h0 : a ≠ aTIFR4) (h1 : a ≠ aPORTC) :
    (match4 cmp m old ticks s).byteAt a = s.byteAt a := by
  unfold match4
  dsimp only
  split
  · split
    · split <;> simp [togglePortC, setOcf4a, State.byteAt_setByte, h0, h1]
    · rfl
  · rfl

/-- Without entries `T4_COMPARE` is the suggestion, OCR4A zero-extended (R321). -/
theorem t4Compare_suggested {s : State} (h : s.params.t4Compare = .table []) :
    t4Compare s = (s.byteAt aOCR4A).toNat := by
  have := (s.byteAt aOCR4A).isLt
  simp only [t4Compare, h, List.lookup_nil, Option.getD_none, BitVec.toNat_setWidth]
  omega

/-- The suggestion does not see what a catch-up changes. -/
theorem compareSteady_suggested {p : Params} (h : p.t4Compare = .table []) : compareSteady p := by
  intro a b ha hb hbyte
  have hp : b.params = a.params := (congrArg State.params hb).trans rfl
  rw [t4Compare_suggested (by rw [hp, ha, h]), t4Compare_suggested (by rw [ha, h]), hbyte _ (by decide)]

/-- `catchUp4` spelled by cases: stopped, no tick yet, or some ticks. -/
theorem catchUp4_cases (now : Nat) (s : State) :
    (divisor4 s = 0 ∧ catchUp4 now s = s.setLastT4 now)
      ∨ (divisor4 s ≠ 0 ∧ (now - s.last.t4) / divisor4 s = 0 ∧ catchUp4 now s = s)
      ∨ (divisor4 s ≠ 0 ∧ (now - s.last.t4) / divisor4 s ≠ 0
          ∧ ∃ m old ticks t, m = s.params.t4Top + 1 ∧ old = s.tcnt4 % m ∧ ticks = (now - s.last.t4) / divisor4 s
            ∧ t = (if m ≤ old + ticks then setTov4 s else s)
            ∧ catchUp4 now s =
              ((match4 (t4Compare s) m old ticks t).setTcnt4 ((old + ticks) % m)).setLastT4 (s.last.t4 + ticks * divisor4 s)) := by
  unfold catchUp4
  by_cases hd : divisor4 s = 0
  · exact .inl ⟨hd, if_pos hd⟩
  · rw [if_neg hd]
    by_cases ht : (now - s.last.t4) / divisor4 s = 0
    · exact .inr (.inl ⟨hd, ht, if_pos ht⟩)
    · exact .inr (.inr ⟨hd, ht, _, _, _, _, rfl, rfl, rfl, rfl, if_neg ht⟩)

theorem catchUp4_quiet (now : Nat) (s : State) : quiet s (catchUp4 now s) := by
  rcases catchUp4_cases now s with ⟨-, h⟩ | ⟨-, -, h⟩ | ⟨-, -, m, old, ticks, t, -, -, -, ht, h⟩
  · rw [h]; rfl
  · rw [h]
  · rw [h]
    have hq : quiet s t := by rw [ht]; split <;> rfl
    exact quiet_trans hq (quiet_trans (match4_quiet _ _ _ _ _) rfl)

/-- Of the bytes, TCNT4, TC4H, TIFR4 and PORTC only. -/
theorem catchUp4_byteAt (now : Nat) (s : State) {a : Nat} (h0 : a ≠ aTCNT4) (h1 : a ≠ aTC4H) (h2 : a ≠ aTIFR4)
    (h3 : a ≠ aPORTC) : (catchUp4 now s).byteAt a = s.byteAt a := by
  rcases catchUp4_cases now s with ⟨-, h⟩ | ⟨-, -, h⟩ | ⟨-, -, m, old, ticks, t, -, -, -, ht, h⟩
  · rw [h]; rfl
  · rw [h]
  · have hb : t.byteAt a = s.byteAt a := by
      rw [ht]; split
      · exact State.byteAt_setByte_other _ _ h2
      · rfl
    rw [h, State.setLastT4_byteAt, State.setTcnt4, State.byteAt_setByte_other _ _ h1, State.byteAt_setByte_other _ _ h0,
      match4_byteAt _ _ _ _ _ h2 h3, hb]

/-- Of the timestamps, `last_t4` only, and it never passes `now`. -/
theorem catchUp4_last (now : Nat) (s : State) :
    (catchUp4 now s).last = { s.last with t4 := (catchUp4 now s).last.t4 }
      ∧ (s.last.t4 ≤ now → (catchUp4 now s).last.t4 ≤ now) := by
  rcases catchUp4_cases now s with ⟨-, h⟩ | ⟨-, -, h⟩ | ⟨-, -, m, old, ticks, t, -, -, hk, ht, h⟩
  · rw [h]; exact ⟨rfl, fun _ => Nat.le_refl _⟩
  · rw [h]; exact ⟨rfl, id⟩
  · have hl : t.last = s.last := by rw [ht]; split <;> rfl
    have e : (catchUp4 now s).last = { s.last with t4 := s.last.t4 + ticks * divisor4 s } := by
      rw [h, State.setLastT4_last, State.setTcnt4_last, match4_last, hl]
    rw [e]
    have := Nat.div_mul_le_self (now - s.last.t4) (divisor4 s)
    exact ⟨rfl, fun hle => by dsimp only; rw [hk]; omega⟩

theorem catchUp4_memo (now : Nat) (s : State) : (catchUp4 now s).t3Triggered = s.t3Triggered := by
  rcases catchUp4_cases now s with ⟨-, h⟩ | ⟨-, -, h⟩ | ⟨-, -, m, old, ticks, t, -, -, -, ht, h⟩
  · rw [h]; rfl
  · rw [h]
  · rw [h, State.setLastT4_t3Triggered, State.setTcnt4_t3Triggered, match4_memo, ht]
    split <;> rfl

/-! ### All three -/

theorem catchUp0_quiet {now : Nat} {s t : State} (h : catchUp0 now s = .ok t) : quiet s t := by
  obtain ⟨d, -, rfl⟩ := catchUp0At_eq_ok.mp h
  exact advance0_quiet d now s

theorem catchUp3_quiet {now : Nat} {s t : State} (h : catchUp3 now s = .ok t) : quiet s t := by
  obtain ⟨-, d, -, rfl⟩ := catchUp3_eq_ok.mp h
  exact quiet_advance3 d now s

/-- `catchUpAll` is the three catch-ups in order (R326). -/
theorem catchUpAll_eq_ok {now : Nat} {s v : State} :
    catchUpAll now s = .ok v ↔ ∃ t u, catchUp0 now s = .ok t ∧ catchUp3 now t = .ok u ∧ v = catchUp4 now u := by
  unfold catchUpAll
  simp only [bind_eq_ok, Except.ok.injEq]
  constructor
  · rintro ⟨t, ht, u, hu, rfl⟩; exact ⟨t, u, ht, hu, rfl⟩
  · rintro ⟨t, u, ht, hu, rfl⟩; exact ⟨t, ht, u, hu, rfl⟩

theorem catchUpAll_quiet {now : Nat} {s v : State} (h : catchUpAll now s = .ok v) : quiet s v := by
  obtain ⟨t, u, ht, hu, rfl⟩ := catchUpAll_eq_ok.mp h
  exact quiet_trans (catchUp0_quiet ht) (quiet_trans (catchUp3_quiet hu) (catchUp4_quiet now u))

/-- Of the bytes, the timers' only. -/
theorem catchUpAll_byteAt {now : Nat} {s v : State} (h : catchUpAll now s = .ok v) {a : Nat} (ha : a ∉ timerBytes) :
    v.byteAt a = s.byteAt a := by
  obtain ⟨t, u, ht, hu, rfl⟩ := catchUpAll_eq_ok.mp h
  obtain ⟨d, -, rfl⟩ := catchUp0At_eq_ok.mp ht
  obtain ⟨-, e, -, rfl⟩ := catchUp3_eq_ok.mp hu
  simp only [timerBytes, List.mem_cons, List.not_mem_nil, not_or, or_false] at ha
  rw [catchUp4_byteAt _ _ ha.2.2.2.2.2.1 ha.2.2.2.2.2.2.1 ha.2.2.2.2.2.2.2.1 ha.2.2.2.2.2.2.2.2,
    advance3_byteAt _ _ _ ha.2.2.1 ha.2.2.2.1 ha.2.2.2.2.1, advance0_byteAt _ _ _ ha.1 ha.2.1]

/-- A catch-up keeps every timestamp at or before `now`, and touches only the timers'. -/
theorem catchUpAll_last {now : Nat} {s v : State} (h : catchUpAll now s = .ok v) :
    v.last.eewe = s.last.eewe ∧ v.last.pll = s.last.pll ∧ v.last.adc = s.last.adc
      ∧ (s.last.t0 ≤ now → v.last.t0 ≤ now) ∧ (s.last.t3 ≤ now → v.last.t3 ≤ now)
      ∧ (s.last.t4 ≤ now → v.last.t4 ≤ now) := by
  obtain ⟨t, u, ht, hu, rfl⟩ := catchUpAll_eq_ok.mp h
  obtain ⟨d, -, rfl⟩ := catchUp0At_eq_ok.mp ht
  obtain ⟨-, e, -, rfl⟩ := catchUp3_eq_ok.mp hu
  obtain ⟨h0, k0⟩ := advance0_last d now s
  obtain ⟨h3, k3⟩ := advance3_last e now (advance0 d now s)
  obtain ⟨h4, k4⟩ := catchUp4_last now (advance3 e now (advance0 d now s))
  refine ⟨?_, ?_, ?_, ?_, ?_, ?_⟩
  · rw [h4, h3, h0]
  · rw [h4, h3, h0]
  · rw [h4, h3, h0]
  · rw [h4, h3]; exact k0
  · rw [h4]; dsimp only; intro hl; exact k3 (by rw [h0]; exact hl)
  · intro hl; exact k4 (by rw [h3, h0]; exact hl)

end Sys2Proof.Machine
end

