-- ==== Sys2Proof/Laws/Hooks.lean ====
section
/-! SUPPORT. What the two access points of the data space answer, when they answer, and what they leave alone
(spec/20_memory.md R65 to R81, R85). -/

namespace Sys2Proof.Machine

/-! ### The one place of each data byte (R60) -/

theorem State.rawRead_reg (s : State) {a : Nat} (h : a < 32) : s.rawRead a = s.reg ⟨a, h⟩ := by
  rw [State.rawRead, dif_pos h]

/-- An address whose byte stands in the data list. -/
def plainHome (a : Nat) : Prop := 32 ≤ a ∧ a ≠ aSPL ∧ a ≠ aSPH ∧ a ≠ aSREG

theorem State.rawRead_plain (s : State) {a : Nat} (h : plainHome a) : s.rawRead a = s.byteAt a := by
  obtain ⟨h0, h1, h2, h3⟩ := h
  rw [State.rawRead, dif_neg (by omega), if_neg h1, if_neg h2, if_neg h3]

theorem State.rawWrite_reg (s : State) {a : Nat} (v : Byte) (h : a < 32) : s.rawWrite a v = s.setReg ⟨a, h⟩ v := by
  rw [State.rawWrite, dif_pos h]

theorem State.rawWrite_plain (s : State) {a : Nat} (v : Byte) (h : plainHome a) : s.rawWrite a v = s.setByte a v := by
  obtain ⟨h0, h1, h2, h3⟩ := h
  rw [State.rawWrite, dif_neg (by omega), if_neg h1, if_neg h2, if_neg h3]

theorem State.rawWrite_spl (s : State) (v : Byte) : s.rawWrite aSPL v = s.setSp (word16 (hi8 s.sp) v) := rfl

theorem State.rawWrite_sph (s : State) (v : Byte) : s.rawWrite aSPH v = s.setSp (word16 v (lo8 s.sp)) := rfl

theorem State.rawWrite_sreg (s : State) (v : Byte) : s.rawWrite aSREG v = s.setFlags (flagsOfByte v) := rfl

/-- `rawWrite` spelled by cases. -/
theorem State.rawWrite_cases (s : State) (a : Nat) (v : Byte) :
    (∃ h : a < 32, s.rawWrite a v = s.setReg ⟨a, h⟩ v) ∨ (a = aSPL ∧ s.rawWrite a v = s.setSp (word16 (hi8 s.sp) v))
      ∨ (a = aSPH ∧ s.rawWrite a v = s.setSp (word16 v (lo8 s.sp)))
      ∨ (a = aSREG ∧ s.rawWrite a v = s.setFlags (flagsOfByte v)) ∨ (plainHome a ∧ s.rawWrite a v = s.setByte a v) := by
  by_cases h0 : a < 32
  · exact .inl ⟨h0, s.rawWrite_reg v h0⟩
  by_cases h1 : a = aSPL
  · subst h1; exact .inr (.inl ⟨rfl, rfl⟩)
  by_cases h2 : a = aSPH
  · subst h2; exact .inr (.inr (.inl ⟨rfl, rfl⟩))
  by_cases h3 : a = aSREG
  · subst h3; exact .inr (.inr (.inr (.inl ⟨rfl, rfl⟩)))
  exact .inr (.inr (.inr (.inr ⟨⟨by omega, h1, h2, h3⟩, s.rawWrite_plain v ⟨by omega, h1, h2, h3⟩⟩)))

theorem State.rawWrite_frame (s : State) (a : Nat) (v : Byte) : storeFrame s (s.rawWrite a v) := by
  rcases s.rawWrite_cases a v with ⟨k, h⟩ | ⟨-, h⟩ | ⟨-, h⟩ | ⟨-, h⟩ | ⟨-, h⟩ <;> rw [h] <;> rfl

theorem State.rawWrite_byteAt (s : State) (a : Nat) (v : Byte) {b : Nat} (hb : b ≠ a) :
    (s.rawWrite a v).byteAt b = s.byteAt b := by
  rcases s.rawWrite_cases a v with ⟨k, h⟩ | ⟨-, h⟩ | ⟨-, h⟩ | ⟨-, h⟩ | ⟨-, h⟩ <;> rw [h] <;>
    simp [State.byteAt_setByte, hb]

theorem State.rawWrite_last (s : State) (a : Nat) (v : Byte) : (s.rawWrite a v).last = s.last := by
  rcases s.rawWrite_cases a v with ⟨k, h⟩ | ⟨-, h⟩ | ⟨-, h⟩ | ⟨-, h⟩ | ⟨-, h⟩ <;> rw [h] <;> rfl

theorem State.rawWrite_eeprom (s : State) (a : Nat) (v : Byte) : (s.rawWrite a v).eeprom = s.eeprom := by
  rcases s.rawWrite_cases a v with ⟨k, h⟩ | ⟨-, h⟩ | ⟨-, h⟩ | ⟨-, h⟩ | ⟨-, h⟩ <;> rw [h] <;> rfl

/-! ### Refresh -/

/-- The addresses with a refresh hook. -/
def hookedRead (a : Nat) : Prop := a = aEECR ∨ a = aPLLCSR ∨ a = aADCSRA ∨ a = aTCNT0

/-- `refresh` spelled by cases. -/
theorem refresh_cases {a : Nat} {s t : State} (h : refresh a s = .ok t) :
    (a = aEECR ∧ t = refreshEecr s) ∨ (a = aPLLCSR ∧ t = refreshPllcsr s) ∨ (a = aADCSRA ∧ t = refreshAdcsra s)
      ∨ (a = aTCNT0 ∧ catchUp0 s.cycles s = .ok t) ∨ (¬ hookedRead a ∧ t = s) := by
  unfold refresh at h
  by_cases h0 : a = aEECR
  · rw [if_pos h0] at h; exact .inl ⟨h0, (Except.ok.inj h).symm⟩
  rw [if_neg h0] at h
  by_cases h1 : a = aPLLCSR
  · rw [if_pos h1] at h; exact .inr (.inl ⟨h1, (Except.ok.inj h).symm⟩)
  rw [if_neg h1] at h
  by_cases h2 : a = aADCSRA
  · rw [if_pos h2] at h; exact .inr (.inr (.inl ⟨h2, (Except.ok.inj h).symm⟩))
  rw [if_neg h2] at h
  by_cases h3 : a = aTCNT0
  · rw [if_pos h3] at h; exact .inr (.inr (.inr (.inl ⟨h3, h⟩)))
  rw [if_neg h3] at h
  refine .inr (.inr (.inr (.inr ⟨?_, (Except.ok.inj h).symm⟩)))
  rintro (h | h | h | h) <;> contradiction

/-- An address without a refresh hook answers with nothing changed (R68). -/
theorem refresh_plain {a : Nat} (s : State) (h : ¬ hookedRead a) : refresh a s = .ok s := by
  unfold hookedRead at h
  simp only [not_or] at h
  rw [refresh, if_neg h.1, if_neg h.2.1, if_neg h.2.2.1, if_neg h.2.2.2]

/-- The three bit hooks change at most their own byte. -/
theorem refreshEecr_cases (s : State) :
    refreshEecr s = s ∨ refreshEecr s = s.setByte aEECR (clearBit (s.byteAt aEECR) 2) := by
  unfold refreshEecr; split
  · exact .inr rfl
  · exact .inl rfl

theorem refreshPllcsr_cases (s : State) :
    refreshPllcsr s = s
      ∨ (s.ioBit aPLLCSR 1 = true ∧ refreshPllcsr s = s.setByte aPLLCSR (setBit (s.byteAt aPLLCSR) 0)) := by
  unfold refreshPllcsr; split
  · rename_i h; simp only [Bool.and_eq_true] at h; exact .inr ⟨h.1.1, rfl⟩
  · exact .inl rfl

theorem refreshAdcsra_cases (s : State) :
    refreshAdcsra s = s ∨ refreshAdcsra s = s.setByte aADCSRA (clearBit (s.byteAt aADCSRA) 6) := by
  unfold refreshAdcsra; split
  · exact .inr rfl
  · exact .inl rfl

theorem refresh_quiet {a : Nat} {s t : State} (h : refresh a s = .ok t) : quiet s t := by
  rcases refresh_cases h with ⟨-, rfl⟩ | ⟨-, rfl⟩ | ⟨-, rfl⟩ | ⟨-, h⟩ | ⟨-, rfl⟩
  · rcases refreshEecr_cases s with h | h <;> rw [h] <;> rfl
  · rcases refreshPllcsr_cases s with h | ⟨-, h⟩ <;> rw [h] <;> rfl
  · rcases refreshAdcsra_cases s with h | h <;> rw [h] <;> rfl
  · exact catchUp0_quiet h
  · rfl

theorem catchUp0_byteAt {now : Nat} {s t : State} (h : catchUp0 now s = .ok t) {b : Nat} (h0 : b ≠ aTCNT0)
    (h1 : b ≠ aTIFR0) : t.byteAt b = s.byteAt b := by
  obtain ⟨d, -, rfl⟩ := catchUp0At_eq_ok.mp h
  exact advance0_byteAt d now s h0 h1

/-- Bytes outside the hook's own are kept. -/
theorem refresh_byteAt {a : Nat} {s t : State} (h : refresh a s = .ok t) {b : Nat} (hb : b ∉ refreshBytes a) :
    t.byteAt b = s.byteAt b := by
  rcases refresh_cases h with ⟨rfl, rfl⟩ | ⟨rfl, rfl⟩ | ⟨rfl, rfl⟩ | ⟨rfl, h⟩ | ⟨-, rfl⟩
  · have : b ≠ aEECR := fun e => hb (by subst e; decide)
    rcases refreshEecr_cases s with h | h <;> rw [h]
    exact State.byteAt_setByte_other _ _ this
  · have : b ≠ aPLLCSR := fun e => hb (by subst e; decide)
    rcases refreshPllcsr_cases s with h | ⟨-, h⟩ <;> rw [h]
    exact State.byteAt_setByte_other _ _ this
  · have : b ≠ aADCSRA := fun e => hb (by subst e; decide)
    rcases refreshAdcsra_cases s with h | h <;> rw [h]
    exact State.byteAt_setByte_other _ _ this
  · exact catchUp0_byteAt h (fun e => hb (by subst e; decide)) (fun e => hb (by subst e; decide))
  · rfl

/-- Of the timestamps a refresh moves `last_t0` at most, never past the present. -/
theorem refresh_last {a : Nat} {s t : State} (h : refresh a s = .ok t) :
    t.last = { s.last with t0 := t.last.t0 } ∧ (s.last.t0 ≤ s.cycles → t.last.t0 ≤ s.cycles) := by
  rcases refresh_cases h with ⟨-, rfl⟩ | ⟨-, rfl⟩ | ⟨-, rfl⟩ | ⟨-, h⟩ | ⟨-, rfl⟩
  · rcases refreshEecr_cases s with h | h <;> rw [h] <;> exact ⟨rfl, id⟩
  · rcases refreshPllcsr_cases s with h | ⟨-, h⟩ <;> rw [h] <;> exact ⟨rfl, id⟩
  · rcases refreshAdcsra_cases s with h | h <;> rw [h] <;> exact ⟨rfl, id⟩
  · obtain ⟨d, -, rfl⟩ := catchUp0At_eq_ok.mp h
    exact advance0_last d s.cycles s
  · exact ⟨rfl, id⟩

/-- A refresh answers exactly where timer0's divisor is defined, if it is TCNT0 that is read. -/
theorem refresh_ok_iff {a : Nat} {s : State} :
    (∃ t, refresh a s = .ok t) ↔ (a = aTCNT0 → clockSelect (s.byteAt aTCCR0B) < 6) := by
  constructor
  · rintro ⟨t, h⟩ rfl
    exact catchUp0At_select (h : catchUp0At _ _ _ = _)
  · intro h
    by_cases h3 : a = aTCNT0
    · subst h3
      exact catchUp0At_ok s.cycles s (h rfl)
    · unfold refresh
      by_cases h0 : a = aEECR
      · exact ⟨_, if_pos h0⟩
      rw [if_neg h0]
      by_cases h1 : a = aPLLCSR
      · exact ⟨_, if_pos h1⟩
      rw [if_neg h1]
      by_cases h2 : a = aADCSRA
      · exact ⟨_, if_pos h2⟩
      rw [if_neg h2]
      exact ⟨s, if_neg h3⟩

/-! ### MemRead -/

theorem checkData_eq_ok {a : Nat} {u : Unit} : checkData a = .ok u ↔ a < Config.dataSize := by
  unfold checkData
  by_cases h : a < Config.dataSize <;> simp [h]

theorem memRead_eq_ok {a : Nat} {s t : State} {v : Byte} :
    memRead a s = .ok (v, t) ↔ a < Config.dataSize ∧ refresh a s = .ok t ∧ v = t.rawRead a := by
  unfold memRead
  simp only [bind_eq_ok, checkData_eq_ok, Except.ok.injEq, Prod.mk.injEq, exists_const]
  constructor
  · rintro ⟨h, u, hu, rfl, rfl⟩; exact ⟨h, hu, rfl⟩
  · rintro ⟨h, hu, rfl⟩; exact ⟨h, t, hu, rfl, rfl⟩

/-- `MemRead` answers exactly under `readOk`. -/
theorem memRead_ok_iff {a : Nat} {s : State} : (∃ v t, memRead a s = .ok (v, t)) ↔ readOk a s := by
  simp only [memRead_eq_ok, readOk]
  constructor
  · rintro ⟨v, t, h, ht, -⟩; exact ⟨h, refresh_ok_iff.mp ⟨t, ht⟩⟩
  · rintro ⟨h, k⟩
    obtain ⟨t, ht⟩ := refresh_ok_iff.mpr k
    exact ⟨_, t, h, ht, rfl⟩

theorem memRead_stop {a : Nat} (s : State) (h : ¬ a < Config.dataSize) : memRead a s = raise (.outOfRangeData a) := by
  unfold memRead checkData
  rw [if_neg h]; rfl

theorem memRead_quiet {a : Nat} {s t : State} {v : Byte} (h : memRead a s = .ok (v, t)) : quiet s t :=
  refresh_quiet (memRead_eq_ok.mp h).2.1

/-- A read of an address without a hook changes nothing and gives the byte. -/
theorem memRead_plain {a : Nat} (s : State) (ha : a < Config.dataSize) (h : ¬ hookedRead a) :
    memRead a s = .ok (s.rawRead a, s) :=
  memRead_eq_ok.mpr ⟨ha, refresh_plain s h, rfl⟩

/-! ### React -/

theorem eepromRead_eq_ok {s t : State} :
    eepromRead s = .ok t ↔ s.eear < Config.eepromBytes ∧ t = s.setByte aEEDR (s.eeprom.read s.eear) := by
  unfold eepromRead checkEeprom
  rw [bind_eq_ok]
  by_cases h : s.eear < Config.eepromBytes <;> simp [h, eq_comm (a := t)]

theorem eepromResult_ok_iff {m : Nat} {o n : Byte} (hm : m < 4) : (∃ x, eepromResult m o n = .ok x) ↔ m ≠ 3 := by
  unfold eepromResult
  match m, hm with
  | 0, _ => simp
  | 1, _ => simp
  | 2, _ => simp
  | 3, _ => simp

theorem eepromProgram_eq_ok {v : Byte} {s t : State} :
    eepromProgram v s = .ok t ↔ s.eear < Config.eepromBytes
      ∧ ∃ x, eepromResult (v.toNat / 16 % 4) (s.eeprom.read s.eear) (s.byteAt aEEDR) = .ok x
        ∧ t = { s with eeprom := s.eeprom.write s.eear x } := by
  unfold eepromProgram checkEeprom
  simp only [bind_eq_ok]
  by_cases h : s.eear < Config.eepromBytes <;> simp [h, eq_comm (a := t)]

/-- The state an EECR write leaves before its read and write of the EEPROM. -/
def eecrStamped (v : Byte) (s : State) : State :=
  if v.getLsbD 2 then (s.setByte aEECR (clearBit (clearBit v 0) 1)).setLastEewe s.cycles
  else s.setByte aEECR (clearBit (clearBit v 0) 1)

theorem reactEecr_eq_ok {old v : Byte} {s u : State} :
    reactEecr old v s = .ok u ↔
      ∃ t, (if v.getLsbD 0 then eepromRead (eecrStamped v s) = .ok t else t = eecrStamped v s)
        ∧ (if v.getLsbD 1 && old.getLsbD 2 then eepromProgram v t = .ok u else u = t) := by
  have e : reactEecr old v s = bind (if v.getLsbD 0 then eepromRead (eecrStamped v s) else .ok (eecrStamped v s)) fun t =>
      if v.getLsbD 1 && old.getLsbD 2 then eepromProgram v t else .ok t := by
    unfold reactEecr
    cases v.getLsbD 0 <;> rfl
  rw [e, bind_eq_ok]
  apply exists_congr
  intro t
  refine and_congr ?_ ?_
  · cases v.getLsbD 0
    · exact ⟨fun h => (Except.ok.inj h).symm, fun h => congrArg Except.ok h.symm⟩
    · exact Iff.rfl
  · cases (v.getLsbD 1 && old.getLsbD 2)
    · exact ⟨fun h => (Except.ok.inj h).symm, fun h => congrArg Except.ok h.symm⟩
    · exact Iff.rfl

theorem eecrStamped_frame (v : Byte) (s : State) : storeFrame s (eecrStamped v s) := by
  unfold eecrStamped; split <;> rfl

theorem eecrStamped_eear (v : Byte) (s : State) : (eecrStamped v s).eear = s.eear := by
  unfold eecrStamped State.eear
  split <;> simp [State.byteAt_setByte, aEEARH, aEEARL, aEECR]

theorem eear_setEedr (s : State) (v : Byte) : (s.setByte aEEDR v).eear = s.eear := by
  simp [State.eear, State.byteAt_setByte, aEEARH, aEEARL, aEEDR]

theorem reactEecr_frame {old v : Byte} {s u : State} (h : reactEecr old v s = .ok u) : storeFrame s u := by
  obtain ⟨t, h0, h1⟩ := reactEecr_eq_ok.mp h
  have ht : storeFrame s t := by
    refine storeFrame_trans (eecrStamped_frame v s) ?_
    split at h0
    · rw [(eepromRead_eq_ok.mp h0).2]; rfl
    · rw [h0]
  refine storeFrame_trans ht ?_
  split at h1
  · obtain ⟨-, x, -, rfl⟩ := eepromProgram_eq_ok.mp h1; rfl
  · rw [h1]

/-- An EECR write answers exactly where the EEPROM address it needs is in range and its mode is not reserved (R74). -/
theorem reactEecr_ok_iff {old v : Byte} {s : State} :
    (∃ u, reactEecr old v s = .ok u) ↔
      (v.getLsbD 0 = true ∨ (v.getLsbD 1 && old.getLsbD 2) = true → s.eear < Config.eepromBytes)
        ∧ ((v.getLsbD 1 && old.getLsbD 2) = true → v.toNat / 16 % 4 ≠ 3) := by
  simp only [reactEecr_eq_ok]
  have hm : v.toNat / 16 % 4 < 4 := Nat.mod_lt _ (by decide)
  cases h0 : v.getLsbD 0 <;> cases h1 : (v.getLsbD 1 && old.getLsbD 2)
  · simp
  · simp only [Bool.false_eq_true, if_false, if_true, exists_eq_left, eepromProgram_eq_ok, eecrStamped_eear, false_or,
      true_imp_iff, exists_and_left]
    refine and_congr_right fun _ => ?_
    rw [← eepromResult_ok_iff (o := (eecrStamped v s).eeprom.read s.eear) (n := (eecrStamped v s).byteAt aEEDR) hm]
    constructor
    · rintro ⟨u, x, hx, -⟩; exact ⟨x, hx⟩
    · rintro ⟨x, hx⟩; exact ⟨_, x, hx, rfl⟩
  · simp [eepromRead_eq_ok, eecrStamped_eear]
  · simp only [if_true, eepromRead_eq_ok, eecrStamped_eear, eepromProgram_eq_ok, true_or, true_imp_iff]
    constructor
    · rintro ⟨u, t, ⟨h, rfl⟩, -, x, hx, -⟩
      exact ⟨h, (eepromResult_ok_iff hm).mp ⟨x, hx⟩⟩
    · rintro ⟨h, k⟩
      obtain ⟨x, hx⟩ := (eepromResult_ok_iff (o := _) (n := _) hm).mpr k
      exact ⟨_, _, ⟨h, rfl⟩, by rw [eear_setEedr, eecrStamped_eear]; exact h, x, hx, rfl⟩

/-- `react` spelled by cases. -/
theorem react_cases {a : Nat} {old v : Byte} {s u : State} (h : react a old v s = .ok u) :
    (a = aEECR ∧ reactEecr old v s = .ok u) ∨ (a = aPLLCSR ∧ u = reactPllcsr old v s) ∨ (a = aSPDR ∧ u = reactSpdr v s)
      ∨ (a = aTCCR0B ∧ reactTccr0b old v s = .ok u) ∨ (a = aTCNT0 ∧ u = reactTcnt0 old v s)
      ∨ (a = aADCSRA ∧ u = reactAdcsra old v s)
      ∨ (a ≠ aEECR ∧ a ≠ aPLLCSR ∧ a ≠ aSPDR ∧ a ≠ aTCCR0B ∧ a ≠ aTCNT0 ∧ a ≠ aADCSRA ∧ u = reactHost a old v s) := by
  unfold react at h
  by_cases h0 : a = aEECR
  · rw [if_pos h0] at h; exact .inl ⟨h0, h⟩
  rw [if_neg h0] at h
  by_cases h1 : a = aPLLCSR
  · rw [if_pos h1] at h; exact .inr (.inl ⟨h1, (Except.ok.inj h).symm⟩)
  rw [if_neg h1] at h
  by_cases h2 : a = aSPDR
  · rw [if_pos h2] at h; exact .inr (.inr (.inl ⟨h2, (Except.ok.inj h).symm⟩))
  rw [if_neg h2] at h
  by_cases h3 : a = aTCCR0B
  · rw [if_pos h3] at h; exact .inr (.inr (.inr (.inl ⟨h3, h⟩)))
  rw [if_neg h3] at h
  by_cases h4 : a = aTCNT0
  · rw [if_pos h4] at h; exact .inr (.inr (.inr (.inr (.inl ⟨h4, (Except.ok.inj h).symm⟩))))
  rw [if_neg h4] at h
  by_cases h5 : a = aADCSRA
  · rw [if_pos h5] at h; exact .inr (.inr (.inr (.inr (.inr (.inl ⟨h5, (Except.ok.inj h).symm⟩)))))
  rw [if_neg h5] at h
  exact .inr (.inr (.inr (.inr (.inr (.inr ⟨h0, h1, h2, h3, h4, h5, (Except.ok.inj h).symm⟩)))))

/-- A reaction that only calls the host changes the host's log at most. -/
theorem reactHost_eq (a : Nat) (old v : Byte) (s : State) :
    reactHost a old v s = { s with hostLog := (reactHost a old v s).hostLog } := by
  unfold reactHost
  split
  · rfl
  · split <;> rfl

/-- No reaction where no port and no half of SP is written. -/
theorem reactHost_plain {a : Nat} (old v : Byte) (s : State) (h : portAt a = none) (h1 : a ≠ aSPL) (h2 : a ≠ aSPH) :
    reactHost a old v s = s := by
  unfold reactHost
  rw [h]
  exact if_neg (fun e => e.elim h1 h2)

/-- Timer0's catch-up leaves flags, registers and everything of a store's frame but bytes and the baseline. -/
theorem quiet_storeFrame {s t : State} (h : quiet s t) (hm : t.t3Triggered = s.t3Triggered) : storeFrame s t := by
  unfold storeFrame
  rw [quiet_gpr h, quiet_flags h, quiet_sp h, quiet_eeprom h, quiet_draws h, quiet_hostLog h, ← hm]
  exact h

theorem reactTccr0b_eq_ok {old v : Byte} {s u : State} :
    reactTccr0b old v s = .ok u ↔ ∃ t, catchUp0At (clockSelect old) s.cycles s = .ok t
      ∧ u = (if clockSelect v = clockSelect old then t else t.setLastT0 s.cycles) := by
  unfold reactTccr0b
  rw [bind_eq_ok]
  simp only [Except.ok.injEq, eq_comm (a := u)]

theorem advance0_frame (d now : Nat) (s : State) : storeFrame s (advance0 d now s) :=
  quiet_storeFrame (advance0_quiet d now s) (advance0_memo d now s)

theorem reactSpdr_cases (v : Byte) (s : State) :
    ∃ x n l, reactSpdr v s = { s.setByte aSPDR x with draws := n, hostLog := l } := by
  unfold reactSpdr
  split
  · exact ⟨Config.spiReply s.draws, s.draws + 1, .spiShift v :: s.hostLog, rfl⟩
  · exact ⟨0, s.draws, s.hostLog, rfl⟩

theorem reactPllcsr_cases (old v : Byte) (s : State) :
    ∃ x n, (x.getLsbD 0 = true → x.getLsbD 1 = true) ∧ (n = s.last.pll ∨ n = s.cycles)
      ∧ reactPllcsr old v s = (s.setByte aPLLCSR x).setLastPll n := by
  have e1 : ∀ w : Byte, (setBit w 0).getLsbD 1 = w.getLsbD 1 := by decide
  have e2 : ∀ w : Byte, (clearBit w 0).getLsbD 0 = false := by decide
  unfold reactPllcsr
  cases h1 : v.getLsbD 1
  · exact ⟨clearBit v 0, s.last.pll, fun h => absurd h (by rw [e2]; decide), .inl rfl, rfl⟩
  · refine ⟨if old.getLsbD 0 then setBit v 0 else clearBit v 0, if old.getLsbD 1 then s.last.pll else s.cycles, ?_, ?_, ?_⟩
    · split
      · intro _; rw [e1]; exact h1
      · intro h; exact absurd h (by rw [e2]; decide)
    · split
      · exact .inl rfl
      · exact .inr rfl
    · rw [if_pos rfl]
      cases old.getLsbD 1 <;> rfl

theorem reactAdcsra_cases (old v : Byte) (s : State) :
    reactAdcsra old v s = s ∨ reactAdcsra old v s = s.setLastAdc s.cycles := by
  unfold reactAdcsra; split
  · exact .inr rfl
  · exact .inl rfl

theorem reactTcnt0_cases (old v : Byte) (s : State) : reactTcnt0 old v s = s ∨ reactTcnt0 old v s = setTov0 s := by
  unfold reactTcnt0; split
  · exact .inr rfl
  · exact .inl rfl

theorem react_frame {a : Nat} {old v : Byte} {s u : State} (h : react a old v s = .ok u) : storeFrame s u := by
  rcases react_cases h with ⟨-, h⟩ | ⟨-, rfl⟩ | ⟨-, rfl⟩ | ⟨-, h⟩ | ⟨-, rfl⟩ | ⟨-, rfl⟩ | ⟨-, -, -, -, -, -, rfl⟩
  · exact reactEecr_frame h
  · obtain ⟨x, n, -, -, h⟩ := reactPllcsr_cases old v s; rw [h]; rfl
  · obtain ⟨x, n, l, h⟩ := reactSpdr_cases v s; rw [h]; rfl
  · obtain ⟨t, ht, rfl⟩ := reactTccr0b_eq_ok.mp h
    obtain ⟨d, -, rfl⟩ := catchUp0At_eq_ok.mp ht
    refine storeFrame_trans (advance0_frame d s.cycles s) ?_
    split <;> rfl
  · rcases reactTcnt0_cases old v s with h | h <;> rw [h] <;> rfl
  · rcases reactAdcsra_cases old v s with h | h <;> rw [h] <;> rfl
  · rw [reactHost_eq]

/-- Bytes outside the write's own are kept. -/
theorem react_byteAt {a : Nat} {old v : Byte} {s u : State} (h : react a old v s = .ok u) {b : Nat}
    (hb : b ∉ writeBytesAt a) : u.byteAt b = s.byteAt b := by
  rcases react_cases h with ⟨rfl, h⟩ | ⟨rfl, rfl⟩ | ⟨rfl, rfl⟩ | ⟨rfl, h⟩ | ⟨rfl, rfl⟩ | ⟨rfl, rfl⟩ | ⟨-, -, -, -, -, -, rfl⟩
  · have e0 : b ≠ aEECR := fun e => hb (by subst e; decide)
    have e1 : b ≠ aEEDR := fun e => hb (by subst e; decide)
    obtain ⟨t, h0, h1⟩ := reactEecr_eq_ok.mp h
    have hs : (eecrStamped v s).byteAt b = s.byteAt b := by
      unfold eecrStamped; split <;> simp [State.byteAt_setByte, e0]
    have ht : t.byteAt b = s.byteAt b := by
      split at h0
      · rw [(eepromRead_eq_ok.mp h0).2, State.byteAt_setByte_other _ _ e1, hs]
      · rw [h0, hs]
    split at h1
    · obtain ⟨-, x, -, rfl⟩ := eepromProgram_eq_ok.mp h1; exact ht
    · rw [h1, ht]
  · obtain ⟨x, n, -, -, h⟩ := reactPllcsr_cases old v s
    rw [h]
    exact State.byteAt_setByte_other _ _ (fun e => hb (by subst e; decide))
  · obtain ⟨x, n, l, h⟩ := reactSpdr_cases v s
    rw [h]
    exact State.byteAt_setByte_other s _ (fun e => hb (by subst e; decide))
  · obtain ⟨t, ht, rfl⟩ := reactTccr0b_eq_ok.mp h
    obtain ⟨d, -, rfl⟩ := catchUp0At_eq_ok.mp ht
    have e0 : b ≠ aTCNT0 := fun e => hb (by subst e; decide)
    have e1 : b ≠ aTIFR0 := fun e => hb (by subst e; decide)
    split
    · exact advance0_byteAt d s.cycles s e0 e1
    · exact advance0_byteAt d s.cycles s e0 e1
  · rcases reactTcnt0_cases old v s with h | h <;> rw [h]
    exact State.byteAt_setByte_other _ _ (fun e => hb (by subst e; decide))
  · rcases reactAdcsra_cases old v s with h | h <;> rw [h] <;> rfl
  · rw [reactHost_eq]; rfl

/-! ### MemWrite -/

theorem memWrite_eq_ok {a : Nat} {v : Byte} {s u : State} :
    memWrite a v s = .ok u ↔ a < Config.dataSize
      ∧ ∃ t, refresh a s = .ok t ∧ react a (t.rawRead a) v (t.rawWrite a v) = .ok u := by
  unfold memWrite
  simp only [bind_eq_ok, checkData_eq_ok, exists_const]

theorem memWrite_stop {a : Nat} (v : Byte) (s : State) (h : ¬ a < Config.dataSize) :
    memWrite a v s = raise (.outOfRangeData a) := by
  unfold memWrite checkData
  rw [if_neg h]; rfl

theorem refresh_memo {a : Nat} {s t : State} (h : refresh a s = .ok t) : t.t3Triggered = s.t3Triggered := by
  rcases refresh_cases h with ⟨-, rfl⟩ | ⟨-, rfl⟩ | ⟨-, rfl⟩ | ⟨-, h⟩ | ⟨-, rfl⟩
  · rcases refreshEecr_cases s with h | h <;> rw [h] <;> rfl
  · rcases refreshPllcsr_cases s with h | ⟨-, h⟩ <;> rw [h] <;> rfl
  · rcases refreshAdcsra_cases s with h | h <;> rw [h] <;> rfl
  · obtain ⟨d, -, rfl⟩ := catchUp0At_eq_ok.mp h
    exact advance0_memo d s.cycles s
  · rfl

theorem memWrite_frame {a : Nat} {v : Byte} {s u : State} (h : memWrite a v s = .ok u) : storeFrame s u := by
  obtain ⟨-, t, ht, hu⟩ := memWrite_eq_ok.mp h
  exact storeFrame_trans (quiet_storeFrame (refresh_quiet ht) (refresh_memo ht))
    (storeFrame_trans (t.rawWrite_frame a v) (react_frame hu))

theorem refreshBytes_sub (a b : Nat) (h : b ∈ refreshBytes a) : b ∈ writeBytesAt a := by
  unfold refreshBytes at h
  split at h
  · rename_i e; subst e; exact h
  · split at h
    · rename_i e
      rcases e with rfl | rfl | rfl
      · rw [List.mem_singleton.mp h]; decide
      · rw [List.mem_singleton.mp h]; decide
      · rw [List.mem_singleton.mp h]; decide
    · exact absurd h List.not_mem_nil

theorem mem_writeBytesAt_self (a : Nat) : a ∈ writeBytesAt a := by
  unfold writeBytesAt
  split
  · rename_i e; subst e; decide
  split
  · rename_i e; subst e; decide
  split
  · rename_i e; subst e; decide
  exact List.mem_singleton.mpr rfl

/-- A store keeps every data byte but those of its address. -/
theorem memWrite_byteAt {a : Nat} {v : Byte} {s u : State} (h : memWrite a v s = .ok u) {b : Nat}
    (hb : b ∉ writeBytesAt a) : u.byteAt b = s.byteAt b := by
  obtain ⟨-, t, ht, hu⟩ := memWrite_eq_ok.mp h
  rw [react_byteAt hu hb, t.rawWrite_byteAt a v (by rintro rfl; exact hb (mem_writeBytesAt_self _)),
    refresh_byteAt ht (fun e => hb (refreshBytes_sub a b e))]

/-- A store where nothing is hooked changes the one byte (R68). -/
theorem memWrite_plain {a : Nat} (v : Byte) (s : State) (ha : a < Config.dataSize) (h : ¬ hookedRead a)
    (h1 : a ≠ aSPDR) (h2 : a ≠ aTCCR0B) (h3 : portAt a = none) (h4 : a ≠ aSPL) (h5 : a ≠ aSPH) :
    memWrite a v s = .ok (s.rawWrite a v) := by
  refine memWrite_eq_ok.mpr ⟨ha, s, refresh_plain s h, ?_⟩
  unfold hookedRead at h
  simp only [not_or] at h
  rw [react, if_neg h.1, if_neg h.2.1, if_neg h1, if_neg h2, if_neg h.2.2.2, if_neg h.2.2.1, reactHost_plain _ _ _ h3 h4 h5]

/-- A store to SRAM. -/
theorem memWrite_sram {a : Nat} (v : Byte) (s : State) (h : sramStart ≤ a) (ha : a < Config.dataSize) :
    memWrite a v s = .ok (s.setByte a v) := by
  have h0 : 256 ≤ a := h
  have e : ∀ n, n < 256 → a ≠ n := fun n hn => by omega
  rw [memWrite_plain v s ha (by
      rintro (k | k | k | k)
      · exact e aEECR (by decide) k
      · exact e aPLLCSR (by decide) k
      · exact e aADCSRA (by decide) k
      · exact e aTCNT0 (by decide) k) (e _ (by decide)) (e _ (by decide)) (by
      rw [portAt, if_neg (e _ (by decide)), if_neg (e _ (by decide)), if_neg (e _ (by decide)), if_neg (e _ (by decide)),
        if_neg (e _ (by decide))]) (e _ (by decide)) (e _ (by decide)),
    s.rawWrite_plain v ⟨by omega, e _ (by decide), e _ (by decide), e _ (by decide)⟩]

/-- A read of SRAM. -/
theorem memRead_sram {a : Nat} (s : State) (h : sramStart ≤ a) (ha : a < Config.dataSize) :
    memRead a s = .ok (s.byteAt a, s) := by
  have h0 : 256 ≤ a := h
  have e : ∀ n, n < 256 → a ≠ n := fun n hn => by omega
  rw [memRead_plain s ha (by
      rintro (k | k | k | k)
      · exact e aEECR (by decide) k
      · exact e aPLLCSR (by decide) k
      · exact e aADCSRA (by decide) k
      · exact e aTCNT0 (by decide) k),
    s.rawRead_plain ⟨by omega, e _ (by decide), e _ (by decide), e _ (by decide)⟩]

/-- `MemWrite` answers exactly under `writeOk`. -/
theorem memWrite_ok_iff {a : Nat} {v : Byte} {s : State} : (∃ u, memWrite a v s = .ok u) ↔ writeOk a v s := by
  simp only [memWrite_eq_ok, exists_and_left, writeOk]
  refine and_congr_right fun ha => ?_
  constructor
  · rintro ⟨u, t, ht, hu⟩
    have hr := refresh_ok_iff.mp ⟨t, ht⟩
    refine ⟨?_, ?_⟩
    · rintro (e | e)
      · exact hr e
      · subst e
        rcases react_cases hu with ⟨e, -⟩ | ⟨e, -⟩ | ⟨e, -⟩ | ⟨-, h⟩ | ⟨e, -⟩ | ⟨e, -⟩ | ⟨-, -, -, e, -⟩
        · exact absurd e (by decide)
        · exact absurd e (by decide)
        · exact absurd e (by decide)
        · obtain ⟨x, hx, -⟩ := reactTccr0b_eq_ok.mp h
          have := catchUp0At_select hx
          have et : t = s := by
            have := refresh_plain (a := aTCCR0B) s (by
              rintro (e | e | e | e) <;> exact absurd e (by decide))
            rw [this] at ht; exact (Except.ok.inj ht).symm
          rw [et, s.rawRead_plain (by refine ⟨?_, ?_, ?_, ?_⟩ <;> decide)] at this
          exact this
        · exact absurd e (by decide)
        · exact absurd e (by decide)
        · exact absurd rfl e
    · rintro rfl
      have et : t = refreshEecr s := (Except.ok.inj ht).symm
      subst et
      have hp : plainHome aEECR := by refine ⟨?_, ?_, ?_, ?_⟩ <;> decide
      have := reactEecr_ok_iff.mp ⟨u, hu⟩
      rw [State.rawRead_plain _ hp, State.rawWrite_plain _ _ hp] at this
      have ee : ((refreshEecr s).setByte aEECR v).eear = s.eear := by
        rcases refreshEecr_cases s with h | h <;> rw [h] <;>
          simp [State.eear, State.byteAt_setByte, aEECR, aEEARH, aEEARL]
      rw [ee] at this
      exact this
  · rintro ⟨h0, h1⟩
    obtain ⟨t, ht⟩ := refresh_ok_iff.mpr (fun e => h0 (.inl e))
    by_cases e0 : a = aEECR
    · subst e0
      have et : t = refreshEecr s := (Except.ok.inj ht).symm
      subst et
      have hp : plainHome aEECR := by refine ⟨?_, ?_, ?_, ?_⟩ <;> decide
      have ee : ((refreshEecr s).setByte aEECR v).eear = s.eear := by
        rcases refreshEecr_cases s with h | h <;> rw [h] <;>
          simp [State.eear, State.byteAt_setByte, aEECR, aEEARH, aEEARL]
      obtain ⟨u, hu⟩ := (reactEecr_ok_iff (old := (refreshEecr s).rawRead aEECR) (v := v)
        (s := (refreshEecr s).rawWrite aEECR v)).mpr (by
          rw [State.rawRead_plain _ hp, State.rawWrite_plain _ _ hp, ee]
          exact h1 rfl)
      exact ⟨u, _, ht, hu⟩
    by_cases e3 : a = aTCCR0B
    · subst e3
      have et : t = s := by
        rcases refresh_cases ht with ⟨e, -⟩ | ⟨e, -⟩ | ⟨e, -⟩ | ⟨e, -⟩ | ⟨-, e⟩
        · exact absurd e (by decide)
        · exact absurd e (by decide)
        · exact absurd e (by decide)
        · exact absurd e (by decide)
        · exact e
      subst et
      have hp : plainHome aTCCR0B := by refine ⟨?_, ?_, ?_, ?_⟩ <;> decide
      obtain ⟨x, hx⟩ := catchUp0At_ok (t.rawWrite aTCCR0B v).cycles (t.rawWrite aTCCR0B v)
        (cs := clockSelect (t.rawRead aTCCR0B)) (by rw [State.rawRead_plain _ hp]; exact h0 (.inr rfl))
      exact ⟨_, t, ht, reactTccr0b_eq_ok.mpr ⟨x, hx, rfl⟩⟩
    · refine ⟨?_, ?_⟩
      · exact if a = aPLLCSR then reactPllcsr (t.rawRead a) v (t.rawWrite a v)
          else if a = aSPDR then reactSpdr v (t.rawWrite a v)
          else if a = aTCNT0 then reactTcnt0 (t.rawRead a) v (t.rawWrite a v)
          else if a = aADCSRA then reactAdcsra (t.rawRead a) v (t.rawWrite a v)
          else reactHost a (t.rawRead a) v (t.rawWrite a v)
      · refine ⟨t, ht, ?_⟩
        unfold react
        rw [if_neg e0, if_neg e3]
        split
        · rfl
        split
        · rfl
        split
        · rfl
        split <;> rfl

end Sys2Proof.Machine
end

