-- ==== Sys2Proof/Laws/Ops.lean ====
section
/-! SUPPORT. What the shared operations over flash, the stack and interrupt entry answer, and when (spec/20_memory.md R62,
44_call_return_stack.md R195, R196, R204, 60_exceptions.md R286). -/

namespace Sys2Proof.Machine

/-! ### Bytes of a word -/

theorem toNat_lo8 (w : Word) : (lo8 w).toNat = w.toNat % 256 := by simp [lo8]

theorem toNat_hi8 (w : Word) : (hi8 w).toNat = w.toNat / 256 := by
  have := w.isLt
  simp only [hi8, BitVec.extractLsb'_toNat, Nat.shiftRight_eq_div_pow]
  omega

theorem toNat_word16 (hi lo : Byte) : (word16 hi lo).toNat = hi.toNat * 256 + lo.toNat := by
  have hl := lo.isLt
  rw [word16, BitVec.toNat_append, Nat.shiftLeft_eq, Nat.mul_comm, ← Nat.two_pow_add_eq_or_of_lt hl hi.toNat]

@[simp] theorem lo8_word16 (hi lo : Byte) : lo8 (word16 hi lo) = lo := by
  apply BitVec.eq_of_toNat_eq
  have hl := lo.isLt
  rw [toNat_lo8, toNat_word16]
  omega

@[simp] theorem hi8_word16 (hi lo : Byte) : hi8 (word16 hi lo) = hi := by
  apply BitVec.eq_of_toNat_eq
  have hl := lo.isLt
  rw [toNat_hi8, toNat_word16]
  omega

@[simp] theorem word16_hi8_lo8 (w : Word) : word16 (hi8 w) (lo8 w) = w := by
  apply BitVec.eq_of_toNat_eq
  rw [toNat_word16, toNat_hi8, toNat_lo8]
  omega

theorem State.pair_setPair (s : State) (i : Reg) (v : Word) : (s.setPair i v).pair i = v := by
  have h : i ≠ i + 1 := by
    intro h
    have := congrArg Fin.val h
    rw [Fin.val_add] at this
    have : i.val < 32 := i.isLt
    have h1 : (1 : Reg).val = 1 := rfl
    omega
  simp [State.pair, State.reg_setPair, h]

/-! ### Flash -/

theorem State.flashWord_eq_ok {s : State} {a : Nat} {w : Word} :
    s.flashWord a = .ok w ↔ a < Config.flashWords ∧ w = word16 (s.flashAt (2 * a + 1)) (s.flashAt (2 * a)) := by
  unfold State.flashWord
  by_cases h : a < Config.flashWords <;> simp [h, eq_comm (a := w)]

theorem State.flashWord_stop {s : State} {a : Nat} (h : ¬ a < Config.flashWords) :
    s.flashWord a = raise (.outOfRangeFlash a) := if_neg h

theorem State.flashByte_eq_ok {s : State} {b : Nat} {v : Byte} :
    s.flashByte b = .ok v ↔ b < Config.flashBytes ∧ v = s.flashAt b := by
  unfold State.flashByte
  by_cases h : b < Config.flashBytes <;> simp [h, eq_comm (a := v)]

/-! ### The stack window -/

/-- The window as an interval (R204). -/
theorem inStack_iff (a : Word) : inStack a = true ↔ 0x100 ≤ a.toNat ∧ a.toNat < 0xB00 := by
  rw [inStack, Bool.and_eq_true, decide_eq_true_iff, decide_eq_true_iff]
  exact Iff.rfl

theorem checkStack_ok {a : Word} (h : inStack a = true) : checkStack a = .ok () := if_pos h

theorem checkStack_stop {a : Word} (h : inStack a = false) : checkStack a = raise (.outOfRangeStack a.toNat) := by
  simp [checkStack, h]

theorem checkStack_eq_ok {a : Word} {u : Unit} : checkStack a = .ok u ↔ inStack a = true := by
  unfold checkStack
  split <;> simp_all

/-- `PushAddr` answers exactly where both bytes are in the window (R195). -/
theorem pushAddr_eq_ok {a : Word} {s t : State} :
    pushAddr a s = .ok t ↔ inStack s.sp = true ∧ inStack (s.sp - 1) = true
      ∧ t = (((s.setByte s.sp.toNat (lo8 a)).setByte (s.sp - 1).toNat (hi8 a)).setSp (s.sp - 2)).notify .callStackPush := by
  unfold pushAddr
  simp only [bind_eq_ok, checkStack_eq_ok, Except.ok.injEq, exists_and_left, exists_const]
  constructor
  · rintro ⟨h, k, rfl⟩; exact ⟨h, k, rfl⟩
  · rintro ⟨h, k, rfl⟩; exact ⟨h, k, rfl⟩

/-- `PopAddr` answers exactly where both bytes are in the window (R196). -/
theorem popAddr_eq_ok {s t : State} {w : Word} :
    popAddr s = .ok (w, t) ↔ inStack (s.sp + 1) = true ∧ inStack (s.sp + 2) = true
      ∧ w = word16 (s.byteAt (s.sp + 1).toNat) (s.byteAt (s.sp + 2).toNat)
      ∧ t = (s.setSp (s.sp + 2)).notify .callStackPop := by
  unfold popAddr
  simp only [bind_eq_ok, checkStack_eq_ok, Except.ok.injEq, Prod.mk.injEq, exists_and_left, exists_const]
  constructor
  · rintro ⟨h, k, rfl, rfl⟩; exact ⟨h, k, rfl, rfl⟩
  · rintro ⟨h, k, rfl, rfl⟩; exact ⟨h, k, rfl, rfl⟩

theorem pushByte_eq_ok {v : Byte} {s t : State} :
    pushByte v s = .ok t ↔ inStack s.sp = true ∧ t = (s.setByte s.sp.toNat v).setSp (s.sp - 1) := by
  unfold pushByte
  simp only [bind_eq_ok, checkStack_eq_ok, Except.ok.injEq, exists_const, eq_comm (a := t)]

theorem popByte_eq_ok {s t : State} {v : Byte} :
    popByte s = .ok (v, t) ↔ inStack (s.sp + 1) = true ∧ v = s.byteAt (s.sp + 1).toNat ∧ t = s.setSp (s.sp + 1) := by
  unfold popByte
  simp only [bind_eq_ok, checkStack_eq_ok, Except.ok.injEq, Prod.mk.injEq, exists_const, eq_comm (a := t), eq_comm (a := v)]

/-! ### Interrupt entry and return -/

/-- The source's flag clear changes at most one byte, its flag register. -/
theorem clearSourceFlag_eq (n : Fin 43) (s : State) :
    clearSourceFlag n s = s
      ∨ ∃ src ∈ irqSources, src.vector = n
          ∧ clearSourceFlag n s = s.setByte src.flagReg (clearBit (s.byteAt src.flagReg) src.flagBit) := by
  unfold clearSourceFlag
  cases h : irqSources.find? (fun src => decide (src.vector = n)) with
  | none => exact .inl rfl
  | some src =>
    have hv := List.find?_some h
    exact .inr ⟨src, List.mem_of_find?_eq_some h, by simpa using hv, rfl⟩

/-- Interrupt entry answers exactly where the return address can be pushed (R286). -/
theorem takeInterrupt_eq_ok {n : Fin 43} {s t : State} :
    takeInterrupt n s = .ok t ↔ inStack s.sp = true ∧ inStack (s.sp - 1) = true
      ∧ ∃ u, u = clearSourceFlag n
            ((((s.setByte s.sp.toNat (lo8 s.pc)).setByte (s.sp - 1).toNat (hi8 s.pc)).setSp (s.sp - 2)).notify .callStackPush)
        ∧ t = { u with
            pending := u.pending &&& ~~~(1#43 <<< n.val), flags := { u.flags with i := false }, insideInterrupt := true,
            pc := BitVec.ofNat 16 (2 * n.val), cycles := u.cycles + entryCycles s, sleeping := false } := by
  unfold takeInterrupt
  simp only [bind_eq_ok, pushAddr_eq_ok, Except.ok.injEq]
  constructor
  · rintro ⟨u, ⟨h, k, rfl⟩, rfl⟩; exact ⟨h, k, _, rfl, rfl⟩
  · rintro ⟨h, k, u, rfl, rfl⟩; exact ⟨_, ⟨h, k, rfl⟩, rfl⟩

/-- The return answers exactly where the address can be popped (R201). -/
theorem returnFromInterrupt_eq_ok {s t : State} :
    returnFromInterrupt s = .ok t ↔ inStack (s.sp + 1) = true ∧ inStack (s.sp + 2) = true
      ∧ t = { (s.setSp (s.sp + 2)).notify .callStackPop with
          pc := word16 (s.byteAt (s.sp + 1).toNat) (s.byteAt (s.sp + 2).toNat),
          flags := { s.flags with i := true }, insideInterrupt := false } := by
  unfold returnFromInterrupt
  simp only [bind_eq_ok, Prod.exists, popAddr_eq_ok, Except.ok.injEq]
  constructor
  · rintro ⟨w, u, ⟨h, k, rfl, rfl⟩, rfl⟩; exact ⟨h, k, rfl⟩
  · rintro ⟨h, k, rfl⟩; exact ⟨_, _, ⟨h, k, rfl, rfl⟩, rfl⟩

end Sys2Proof.Machine
end

