-- ==== Sys2Proof/Laws/Interrupts.lean ====
section
/-! SUPPORT. What recognition, dispatch and the tail of a step answer (spec/60_exceptions.md R284, R286, R287,
70_reset_and_hazards.md R345). -/

namespace Sys2Proof.Machine

/-- Recognition of one source changes the pending mask only. -/
theorem recogniseSource_eq (s : State) (src : IrqSource) :
    recogniseSource s src = { s with pending := (recogniseSource s src).pending } := by
  unfold recogniseSource
  split <;> rfl

/-- The bit a source contributes to the pending mask. -/
def sourceBit (s : State) (src : IrqSource) : BitVec 43 :=
  if s.ioBit src.flagReg src.flagBit && s.ioBit src.maskReg src.maskBit then 1#43 <<< src.vector.val else 0

theorem recogniseSource_pending (s : State) (src : IrqSource) :
    recogniseSource s src = { s with pending := s.pending ||| sourceBit s src } := by
  unfold recogniseSource sourceBit
  split
  · rfl
  · simp

/-- Recognition adds the four sources' bits to the mask and changes nothing else (R284). -/
theorem recognise_eq (s : State) :
    recognise s = { s with
      pending := (((s.pending ||| sourceBit s irqTimer0Ovf) ||| sourceBit s irqTimer3CompA)
        ||| sourceBit s irqTimer4CompA) ||| sourceBit s irqTimer4Ovf } := by
  simp only [recognise, irqSources, List.foldl, recogniseSource_pending]
  rfl

/-- The lowest pending number is pending, and no lower one is (R287). -/
theorem lowestPending_eq_some {p : BitVec 43} {n : Fin 43} :
    lowestPending p = some n ↔ p.getLsbD n.val = true ∧ ∀ m : Fin 43, m < n → p.getLsbD m.val = false := by
  unfold lowestPending
  rw [List.find?_eq_some_iff_getElem]
  constructor
  · rintro ⟨hn, i, hi, he, hl⟩
    refine ⟨hn, fun m hm => ?_⟩
    rw [List.getElem_finRange] at he
    subst he
    have hmi : m.val < i := hm
    have := hl m.val hmi
    rw [List.getElem_finRange] at this
    simpa using this
  · rintro ⟨hn, hl⟩
    refine ⟨hn, n.val, by simp, by simp, fun j hj => ?_⟩
    rw [List.getElem_finRange]
    have := hl ⟨j, by omega⟩ hj
    simpa using this

theorem lowestPending_eq_none {p : BitVec 43} : lowestPending p = none ↔ ∀ n : Fin 43, p.getLsbD n.val = false := by
  unfold lowestPending
  rw [List.find?_eq_none]
  constructor
  · intro h n
    have := h n (List.mem_finRange n)
    simpa using this
  · intro h n _
    rw [h n]; decide

/-- Dispatch does nothing, or enters the lowest pending vector (R286). -/
theorem dispatch_eq_ok {s t : State} :
    dispatch s = .ok t ↔
      ((s.flags.i = false ∨ lowestPending s.pending = none) ∧ t = s)
        ∨ (s.flags.i = true ∧ ∃ n, lowestPending s.pending = some n ∧ takeInterrupt n s = .ok t) := by
  unfold dispatch
  cases hi : s.flags.i
  · simp [eq_comm (a := t)]
  · cases hp : lowestPending s.pending with
    | none => simp [eq_comm (a := t)]
    | some n => simp

/-- The tail of a step: catch-up, recognition, dispatch (R345). -/
theorem afterBody_eq_ok {s v : State} :
    afterBody s = .ok v ↔ ∃ t, catchUpAll s.cycles s = .ok t ∧ dispatch (recognise t) = .ok v := by
  unfold afterBody
  rw [bind_eq_ok]

end Sys2Proof.Machine
end

