-- ==== Sys2Proof/Laws/Operands.lean ====
section
/-! SUPPORT. What the operand forms, the fetch and the step answer (spec/43_branch_skip.md R185, 45_data_transfer.md R238,
R239, 41_logic_and_bit.md R166, R167, 70_reset_and_hazards.md R345, R346). -/

namespace Sys2Proof.Machine

/-! ### Pointer forms -/

theorem checkOverlap_eq_ok {p : Ptr} {m : PtrMode} {r : Reg} {u : Unit} :
    checkOverlap p m r = .ok u ↔ overlaps p m r = false := by
  unfold checkOverlap
  cases overlaps p m r <;> simp

theorem checkOverlap_stop {p : Ptr} {m : PtrMode} {r : Reg} (h : overlaps p m r = true) :
    checkOverlap p m r = refuse .pointerOverlap := by
  unfold checkOverlap
  rw [if_pos h]

/-- The pointer write-back writes the two pointer registers and nothing else. -/
theorem writeBack_reg (p : Ptr) (m : PtrMode) (w : Word) (s : State) {r : Reg} (h0 : r ≠ p.low) (h1 : r ≠ p.low + 1) :
    (writeBack p m w s).reg r = s.reg r := by
  cases m <;> simp [writeBack, State.reg_setPair, h0, h1]

theorem writeBack_eq (p : Ptr) (m : PtrMode) (w : Word) (s : State) :
    writeBack p m w s = { s with gpr := (writeBack p m w s).gpr } := by
  cases m <;> rfl

/-- After the write-back the pointer holds its new value. -/
theorem writeBack_pair (p : Ptr) (m : PtrMode) (s : State) : (writeBack p m (s.ptr p) s).ptr p = m.after (s.ptr p) := by
  cases m
  · rfl
  · exact State.pair_setPair _ _ _
  · exact State.pair_setPair _ _ _

theorem loadFrom_eq_ok {ea : Word} {d : Reg} {n : Nat} {c : CycCase} {s u : State} :
    loadFrom ea d n c s = .ok u ↔ ∃ v t, memRead ea.toNat s = .ok (v, t) ∧ u = (t.setReg d v).advance n (s.cyc c) := by
  unfold loadFrom
  simp only [bind_eq_ok, Prod.exists, Except.ok.injEq, eq_comm (a := u)]

theorem storeTo_eq_ok {ea : Word} {v : Byte} {n : Nat} {c : CycCase} {s u : State} :
    storeTo ea v n c s = .ok u ↔ ∃ t, memWrite ea.toNat v s = .ok t ∧ u = t.advance n (s.cyc c) := by
  unfold storeTo
  simp only [bind_eq_ok, Except.ok.injEq, eq_comm (a := u)]

theorem loadPtr_eq_ok {p : Ptr} {m : PtrMode} {d : Reg} {s u : State} :
    loadPtr p m d s = .ok u ↔ overlaps p m d = false ∧ ∃ v t, memRead (m.address (s.ptr p)).toNat s = .ok (v, t)
      ∧ u = ((writeBack p m (s.ptr p) t).setReg d v).advance 1 (s.cyc .ld) := by
  unfold loadPtr
  simp only [bind_eq_ok, checkOverlap_eq_ok, Prod.exists, Except.ok.injEq, exists_const, eq_comm (a := u)]

theorem storePtr_eq_ok {p : Ptr} {m : PtrMode} {r : Reg} {s u : State} :
    storePtr p m r s = .ok u ↔ overlaps p m r = false ∧ ∃ t, memWrite (m.address (s.ptr p)).toNat (s.reg r) s = .ok t
      ∧ u = (writeBack p m (s.ptr p) t).advance 1 (s.cyc .st) := by
  unfold storePtr
  simp only [bind_eq_ok, checkOverlap_eq_ok, Except.ok.injEq, exists_const, eq_comm (a := u)]

theorem loadFlash_eq_ok {m : PtrMode} {d : Reg} {s u : State} :
    loadFlash m d s = .ok u ↔ overlaps .z m d = false ∧ (s.ptr .z).toNat < Config.flashBytes
      ∧ u = ((writeBack .z m (s.ptr .z) s).setReg d (s.flashAt (s.ptr .z).toNat)).advance 1 (s.cyc .lpm) := by
  unfold loadFlash
  simp only [bind_eq_ok, checkOverlap_eq_ok, State.flashByte_eq_ok, Except.ok.injEq, exists_const]
  constructor
  · rintro ⟨h, v, ⟨k, rfl⟩, rfl⟩; exact ⟨h, k, rfl⟩
  · rintro ⟨h, k, rfl⟩; exact ⟨h, _, ⟨k, rfl⟩, rfl⟩

theorem modifyIo_eq_ok {c : CycCase} {a : Nat} {f : Byte → Byte} {s u : State} :
    modifyIo c a f s = .ok u ↔ ∃ v t w, memRead a s = .ok (v, t) ∧ memWrite a (f v) t = .ok w
      ∧ u = w.advance 1 (s.cyc c) := by
  unfold modifyIo
  simp only [bind_eq_ok, Prod.exists, Except.ok.injEq]
  constructor
  · rintro ⟨v, t, h, w, k, rfl⟩; exact ⟨v, t, w, h, k, rfl⟩
  · rintro ⟨v, t, w, h, k, rfl⟩; exact ⟨v, t, h, w, k, rfl⟩

/-! ### Skips, branches and targets -/

/-- A skip that answers moved on by one, two or three words, and changed nothing else (R185). -/
theorem skipIf_eq_ok {k : Nat → CycCase} {c : Bool} {s u : State} :
    skipIf k c s = .ok u ↔ (c = false ∧ u = s.advance 1 (s.cyc (k 0)))
      ∨ (c = true ∧ ∃ w, s.flashWord (s.pc.toNat + 1) = .ok w
          ∧ u = if is2Word w then s.advance 3 (s.cyc (k 2)) else s.advance 2 (s.cyc (k 1))) := by
  unfold skipIf
  cases c
  · simp [eq_comm (a := u)]
  · rw [if_pos rfl, bind_eq_ok]
    simp only [Except.ok.injEq, eq_comm (a := u)]
    simp

theorem skipIf_stop {k : Nat → CycCase} {s : State} (h : ¬ s.pc.toNat + 1 < Config.flashWords) :
    skipIf k true s = raise (.outOfRangeFlash (s.pc.toNat + 1)) := by
  unfold skipIf
  rw [if_pos rfl, State.flashWord_stop h]
  rfl

theorem checkTarget_eq_ok {k : BitVec 22} {w : Word} :
    checkTarget k = .ok w ↔ k.toNat < 65536 ∧ w = BitVec.ofNat 16 k.toNat := by
  unfold checkTarget
  by_cases h : k.toNat < 65536 <;> simp [h, eq_comm (a := w)]

theorem checkTarget_stop {k : BitVec 22} (h : ¬ k.toNat < 65536) : checkTarget k = raise (.outOfRangeFlash k.toNat) :=
  if_neg h

/-! ### Fetch and step -/

/-- An instruction is fetched from the word at pc and, for a two-word form, the next (R346). -/
theorem fetch_eq_ok {s : State} {i : Instr} :
    fetch s = .ok i ↔ ∃ w j, s.flashWord s.pc.toNat = .ok w ∧ decodeWords w 0 = some j
      ∧ (if is2Word w then ∃ w2, s.flashWord (s.pc.toNat + 1) = .ok w2 ∧ decodeWords w w2 = some i else i = j) := by
  unfold fetch
  rw [bind_eq_ok]
  apply exists_congr
  intro w
  cases hj : decodeWords w 0 with
  | none => simp
  | some j =>
    simp only [fetchOperand]
    cases hw : is2Word w
    · constructor
      · rintro ⟨h, k⟩; exact ⟨j, h, rfl, (Except.ok.inj k).symm⟩
      · rintro ⟨j', h, k, l⟩
        cases k
        exact ⟨h, congrArg Except.ok (Eq.symm l)⟩
    · simp only [if_true, bind_eq_ok]
      constructor
      · rintro ⟨h, w2, k, l⟩
        refine ⟨j, h, rfl, w2, k, ?_⟩
        cases hd : decodeWords w w2 with
        | none => rw [hd] at l; exact absurd l (raise_ne_ok _ _)
        | some i' => rw [hd] at l; exact congrArg some (Except.ok.inj l)
      · rintro ⟨j', h, -, w2, k, l⟩
        refine ⟨h, w2, k, ?_⟩
        rw [l]

/-- What a step answers, by its body (R345). -/
theorem step_eq_next {s v : State} :
    step s = .next v ↔ s.hasProgram = true ∧ ∃ t, stepBody s = .next t ∧ afterBody t = .ok v := by
  unfold step stepCore
  cases s.hasProgram
  · simp
  · rw [if_pos rfl]
    cases stepBody s with
    | next t => simp [thenTail, outcome_eq_next]
    | fault f => simp [thenTail]
    | refused r => simp [thenTail]

/-- The callbacks before an instruction change the host's log at most (R305). -/
theorem observe_eq (s : State) : observe s = { s with hostLog := (observe s).hostLog } := rfl

/-- A count of `CYC` (00_scope.md R8): the override of the case, else the default. -/
theorem Params.cyc_override (p : Params) (c : CycCase) (n : Nat) :
    ({ p with cycOverrides := (c, n) :: p.cycOverrides } : Params).cyc c = n := by
  simp [Params.cyc, List.lookup]

theorem Params.cyc_default {p : Params} (h : p.cycOverrides = []) (c : CycCase) : p.cyc c = cycDefault c := by
  simp [Params.cyc, h]

/-- The body of a step is a sleeping advance, or the fetched instruction (R330, R345). -/
theorem stepBody_eq_next {s t : State} :
    stepBody s = .next t ↔ (s.sleeping = true ∧ t = sleepAdvance 1 s)
      ∨ (s.sleeping = false ∧ ∃ i, fetch s = .ok i ∧ exec i (observe s) = .next t) := by
  unfold stepBody runInstr
  cases s.sleeping
  · cases h : fetch s with
    | ok i => simp
    | error e => cases e <;> simp
  · simp [eq_comm (a := t)]

end Sys2Proof.Machine
end

