-- ==== Sys2Proof/Laws/PerInstr.lean ====
section
/-! SUPPORT. One statement per instruction, about its syntax: its first word selects its own row of spec/30_encoding.md R106,
and that row reads the instruction back, with its length. -/

section

open Sys2Proof

/-- A well-formed instruction's encoding starts with a word that selects a row of the table as long as the encoding, and
the row reads that instruction. -/
def Sys2Proof.Laws.RowHit.Statement (i : Sys2Proof.Instr) : Prop :=
  i.wellFormed = true → ∃ row ∈ Sys2Proof.opcodeTable, ∃ w rest, Sys2Proof.encode i = w :: rest
    ∧ row.hits w = true ∧ rest.length + 1 = row.words ∧ row.build w (rest.headD 0) = i

/-! ### Fields of concatenated words -/

theorem Sys2Proof.Laws.RowHit.low {a c : Nat} (x : BitVec a) (z : BitVec c) : (x ++ z).extractLsb' 0 c = z := by
  apply BitVec.eq_of_getLsbD_eq
  intro i hi
  simp only [BitVec.getLsbD_extractLsb', BitVec.getLsbD_append, hi, decide_true, Bool.true_and, Nat.zero_add, if_true]

theorem Sys2Proof.Laws.RowHit.high {a c : Nat} (x : BitVec a) (z : BitVec c) (n m : Nat) :
    (x ++ z).extractLsb' (n + c) m = x.extractLsb' n m := by
  apply BitVec.eq_of_getLsbD_eq
  intro i hi
  simp only [BitVec.getLsbD_extractLsb', BitVec.getLsbD_append, hi, decide_true, Bool.true_and]
  rw [if_neg (by omega), show n + c + i - c = n + i by omega]

theorem Sys2Proof.Laws.RowHit.field {a b c : Nat} (x : BitVec a) (y : BitVec b) (z : BitVec c) :
    (x ++ y ++ z).extractLsb' c b = y := by
  have h := Sys2Proof.Laws.RowHit.high (x ++ y) z 0 b
  rw [Nat.zero_add] at h
  rw [h, Sys2Proof.Laws.RowHit.low]

theorem Sys2Proof.Laws.RowHit.rejoin {a b : Nat} (x : BitVec (a + b)) : x.extractLsb' b a ++ x.extractLsb' 0 b = x := by
  apply BitVec.eq_of_getLsbD_eq
  intro i hi
  rw [BitVec.getLsbD_append]
  by_cases h : i < b
  · simp [h]
  · simp only [h, if_false, BitVec.getLsbD_extractLsb']
    rw [decide_eq_true (by omega), Bool.true_and, show b + (i - b) = i by omega]

/-! ### The forms of R102 -/

theorem Sys2Proof.Laws.RowHit.encRR_fields (op : BitVec 6) (d r : Reg) :
    encRR op d r &&& 0xFC00 = op ++ 0#1 ++ 0#5 ++ 0#4
      ∧ rd5 (encRR op d r) = d
      ∧ rr5 (encRR op d r) = r := by
  have k0 : ∀ d : Reg, Fin.ofNat 32 (BitVec.ofNat 5 d.val).toNat = d := by decide
  have k1 : ∀ r : Reg, Fin.ofNat 32 (BitVec.ofNat 1 (r.val / 16) ++ BitVec.ofNat 4 r.val).toNat = r := by decide
  have e1 : (encRR op d r).extractLsb' 9 1 = BitVec.ofNat 1 (r.val / 16) :=
    (Sys2Proof.Laws.RowHit.high _ _ 5 1).trans (Sys2Proof.Laws.RowHit.field _ _ _)
  have e2 : (encRR op d r).extractLsb' 4 5 = BitVec.ofNat 5 d.val :=
    Sys2Proof.Laws.RowHit.field _ _ _
  have e3 : (encRR op d r).extractLsb' 0 4 = BitVec.ofNat 4 r.val :=
    Sys2Proof.Laws.RowHit.low _ _
  refine ⟨?_, ?_, ?_⟩
  · have m : (op ++ BitVec.ofNat 1 (r.val / 16) ++ BitVec.ofNat 5 d.val ++ BitVec.ofNat 4 r.val) &&& (BitVec.allOnes 6 ++ 0#1 ++ 0#5 ++ 0#4) = op ++ 0#1 ++ 0#5 ++ 0#4 := by
      simp only [BitVec.and_append, BitVec.and_zero, BitVec.and_allOnes]
    exact m
  · rw [rd5, e2]
    exact k0 d
  · rw [rr5, e3, e1]
    exact k1 r

theorem Sys2Proof.Laws.RowHit.encRI_fields (op : BitVec 4) (d : Reg) (k8 : Byte) (hd : d.isUpper = true) :
    encRI op d k8 &&& 0xF000 = op ++ 0#4 ++ 0#4 ++ 0#4
      ∧ rdUpper (encRI op d k8) = d
      ∧ imm8 (encRI op d k8) = k8 := by
  have k0 : ∀ d : Reg, d.isUpper = true → Fin.ofNat 32 (16 + (BitVec.ofNat 4 (d.val - 16)).toNat) = d := by decide
  have e1 : (encRI op d k8).extractLsb' 8 4 = k8.extractLsb' 4 4 :=
    (Sys2Proof.Laws.RowHit.high _ _ 4 4).trans (Sys2Proof.Laws.RowHit.field _ _ _)
  have e2 : (encRI op d k8).extractLsb' 4 4 = BitVec.ofNat 4 (d.val - 16) :=
    Sys2Proof.Laws.RowHit.field _ _ _
  have e3 : (encRI op d k8).extractLsb' 0 4 = k8.extractLsb' 0 4 :=
    Sys2Proof.Laws.RowHit.low _ _
  refine ⟨?_, ?_, ?_⟩
  · have m : (op ++ k8.extractLsb' 4 4 ++ BitVec.ofNat 4 (d.val - 16) ++ k8.extractLsb' 0 4) &&& (BitVec.allOnes 4 ++ 0#4 ++ 0#4 ++ 0#4) = op ++ 0#4 ++ 0#4 ++ 0#4 := by
      simp only [BitVec.and_append, BitVec.and_zero, BitVec.and_allOnes]
    exact m
  · rw [rdUpper, e2]
    exact k0 d hd
  · rw [imm8, e1, e3]
    exact Sys2Proof.Laws.RowHit.rejoin (a := 4) (b := 4) k8

theorem Sys2Proof.Laws.RowHit.encR_fields (op : BitVec 7) (d : Reg) (low : BitVec 4) :
    encR op d low &&& 0xFE0F = op ++ 0#5 ++ low
      ∧ rd5 (encR op d low) = d := by
  have k0 : ∀ d : Reg, Fin.ofNat 32 (BitVec.ofNat 5 d.val).toNat = d := by decide
  have e1 : (encR op d low).extractLsb' 4 5 = BitVec.ofNat 5 d.val :=
    Sys2Proof.Laws.RowHit.field _ _ _
  refine ⟨?_, ?_⟩
  · have m : (op ++ BitVec.ofNat 5 d.val ++ low) &&& (BitVec.allOnes 7 ++ 0#5 ++ BitVec.allOnes 4) = op ++ 0#5 ++ low := by
      simp only [BitVec.and_append, BitVec.and_zero, BitVec.and_allOnes]
    exact m
  · rw [rd5, e1]
    exact k0 d

theorem Sys2Proof.Laws.RowHit.encRP_fields (op : BitVec 8) (d r : Reg) (hd : d.isEven = true) (hr : r.isEven = true) :
    encRP op d r &&& 0xFF00 = op ++ 0#4 ++ 0#4
      ∧ pairD (encRP op d r) = d
      ∧ pairR (encRP op d r) = r := by
  have k0 : ∀ d : Reg, d.isEven = true → Fin.ofNat 32 (2 * (BitVec.ofNat 4 (d.val / 2)).toNat) = d := by decide
  have e1 : (encRP op d r).extractLsb' 4 4 = BitVec.ofNat 4 (d.val / 2) :=
    Sys2Proof.Laws.RowHit.field _ _ _
  have e2 : (encRP op d r).extractLsb' 0 4 = BitVec.ofNat 4 (r.val / 2) :=
    Sys2Proof.Laws.RowHit.low _ _
  refine ⟨?_, ?_, ?_⟩
  · have m : (op ++ BitVec.ofNat 4 (d.val / 2) ++ BitVec.ofNat 4 (r.val / 2)) &&& (BitVec.allOnes 8 ++ 0#4 ++ 0#4) = op ++ 0#4 ++ 0#4 := by
      simp only [BitVec.and_append, BitVec.and_zero, BitVec.and_allOnes]
    exact m
  · rw [pairD, e1]
    exact k0 d hd
  · rw [pairR, e2]
    exact k0 r hr

theorem Sys2Proof.Laws.RowHit.encR4R4_fields (op : BitVec 8) (d r : Reg) (hd : d.isUpper = true) (hr : r.isUpper = true) :
    encR4R4 op d r &&& 0xFF00 = op ++ 0#4 ++ 0#4
      ∧ rdUpper (encR4R4 op d r) = d
      ∧ rrUpper (encR4R4 op d r) = r := by
  have k0 : ∀ d : Reg, d.isUpper = true → Fin.ofNat 32 (16 + (BitVec.ofNat 4 (d.val - 16)).toNat) = d := by decide
  have e1 : (encR4R4 op d r).extractLsb' 4 4 = BitVec.ofNat 4 (d.val - 16) :=
    Sys2Proof.Laws.RowHit.field _ _ _
  have e2 : (encR4R4 op d r).extractLsb' 0 4 = BitVec.ofNat 4 (r.val - 16) :=
    Sys2Proof.Laws.RowHit.low _ _
  refine ⟨?_, ?_, ?_⟩
  · have m : (op ++ BitVec.ofNat 4 (d.val - 16) ++ BitVec.ofNat 4 (r.val - 16)) &&& (BitVec.allOnes 8 ++ 0#4 ++ 0#4) = op ++ 0#4 ++ 0#4 := by
      simp only [BitVec.and_append, BitVec.and_zero, BitVec.and_allOnes]
    exact m
  · rw [rdUpper, e1]
    exact k0 d hd
  · rw [rrUpper, e2]
    exact k0 r hr

theorem Sys2Proof.Laws.RowHit.encR3R3_fields (op : BitVec 9) (d : Reg) (o3 : BitVec 1) (r : Reg) (hd : d.isUpperLow = true) (hr : r.isUpperLow = true) :
    encR3R3 op d o3 r &&& 0xFF88 = op ++ 0#3 ++ o3 ++ 0#3
      ∧ rdUpperLow (encR3R3 op d o3 r) = d
      ∧ rrUpperLow (encR3R3 op d o3 r) = r := by
  have k0 : ∀ d : Reg, d.isUpperLow = true → Fin.ofNat 32 (16 + (BitVec.ofNat 3 (d.val - 16)).toNat) = d := by decide
  have e1 : (encR3R3 op d o3 r).extractLsb' 4 3 = BitVec.ofNat 3 (d.val - 16) :=
    (Sys2Proof.Laws.RowHit.high _ _ 1 3).trans (Sys2Proof.Laws.RowHit.field _ _ _)
  have e3 : (encR3R3 op d o3 r).extractLsb' 0 3 = BitVec.ofNat 3 (r.val - 16) :=
    Sys2Proof.Laws.RowHit.low _ _
  refine ⟨?_, ?_, ?_⟩
  · have m : (op ++ BitVec.ofNat 3 (d.val - 16) ++ o3 ++ BitVec.ofNat 3 (r.val - 16)) &&& (BitVec.allOnes 9 ++ 0#3 ++ BitVec.allOnes 1 ++ 0#3) = op ++ 0#3 ++ o3 ++ 0#3 := by
      simp only [BitVec.and_append, BitVec.and_zero, BitVec.and_allOnes]
    exact m
  · rw [rdUpperLow, e1]
    exact k0 d hd
  · rw [rrUpperLow, e3]
    exact k0 r hr

theorem Sys2Proof.Laws.RowHit.encDisp_fields (st : BitVec 1) (d : Reg) (y : BitVec 1) (q : BitVec 6) :
    encDisp st d y q &&& 0xD208 = 0b10#2 ++ 0#1 ++ 0b0#1 ++ 0#2 ++ st ++ 0#5 ++ y ++ 0#3
      ∧ rd5 (encDisp st d y q) = d
      ∧ disp6 (encDisp st d y q) = q := by
  have k0 : ∀ d : Reg, Fin.ofNat 32 (BitVec.ofNat 5 d.val).toNat = d := by decide
  have kq : ∀ q : BitVec 6, q.extractLsb' 5 1 ++ q.extractLsb' 3 2 ++ q.extractLsb' 0 3 = q := by decide
  have e1 : (encDisp st d y q).extractLsb' 13 1 = q.extractLsb' 5 1 :=
    (Sys2Proof.Laws.RowHit.high _ _ 10 1).trans ((Sys2Proof.Laws.RowHit.high _ _ 9 1).trans ((Sys2Proof.Laws.RowHit.high _ _ 4 1).trans ((Sys2Proof.Laws.RowHit.high _ _ 3 1).trans ((Sys2Proof.Laws.RowHit.high _ _ 1 1).trans (Sys2Proof.Laws.RowHit.field _ _ _)))))
  have e3 : (encDisp st d y q).extractLsb' 10 2 = q.extractLsb' 3 2 :=
    (Sys2Proof.Laws.RowHit.high _ _ 7 2).trans ((Sys2Proof.Laws.RowHit.high _ _ 6 2).trans ((Sys2Proof.Laws.RowHit.high _ _ 1 2).trans (Sys2Proof.Laws.RowHit.field _ _ _)))
  have e5 : (encDisp st d y q).extractLsb' 4 5 = BitVec.ofNat 5 d.val :=
    (Sys2Proof.Laws.RowHit.high _ _ 1 5).trans (Sys2Proof.Laws.RowHit.field _ _ _)
  have e7 : (encDisp st d y q).extractLsb' 0 3 = q.extractLsb' 0 3 :=
    Sys2Proof.Laws.RowHit.low _ _
  refine ⟨?_, ?_, ?_⟩
  · have m : (0b10#2 ++ q.extractLsb' 5 1 ++ 0b0#1 ++ q.extractLsb' 3 2 ++ st ++ BitVec.ofNat 5 d.val ++ y ++ q.extractLsb' 0 3) &&& (BitVec.allOnes 2 ++ 0#1 ++ BitVec.allOnes 1 ++ 0#2 ++ BitVec.allOnes 1 ++ 0#5 ++ BitVec.allOnes 1 ++ 0#3) = 0b10#2 ++ 0#1 ++ 0b0#1 ++ 0#2 ++ st ++ 0#5 ++ y ++ 0#3 := by
      simp only [BitVec.and_append, BitVec.and_zero, BitVec.and_allOnes]
    exact m
  · rw [rd5, e5]
    exact k0 d
  · rw [disp6, e1, e3, e7]
    exact kq q

theorem Sys2Proof.Laws.RowHit.encWI_fields (op : BitVec 8) (d : Reg) (k6 : BitVec 6) (hd : d.isUpperPair = true) :
    encWI op d k6 &&& 0xFF00 = op ++ 0#2 ++ 0#2 ++ 0#4
      ∧ rdWordPair (encWI op d k6) = d
      ∧ imm6 (encWI op d k6) = k6 := by
  have k0 : ∀ d : Reg, d.isUpperPair = true → Fin.ofNat 32 (24 + 2 * (BitVec.ofNat 2 ((d.val - 24) / 2)).toNat) = d := by decide
  have e1 : (encWI op d k6).extractLsb' 6 2 = k6.extractLsb' 4 2 :=
    (Sys2Proof.Laws.RowHit.high _ _ 2 2).trans (Sys2Proof.Laws.RowHit.field _ _ _)
  have e2 : (encWI op d k6).extractLsb' 4 2 = BitVec.ofNat 2 ((d.val - 24) / 2) :=
    Sys2Proof.Laws.RowHit.field _ _ _
  have e3 : (encWI op d k6).extractLsb' 0 4 = k6.extractLsb' 0 4 :=
    Sys2Proof.Laws.RowHit.low _ _
  refine ⟨?_, ?_, ?_⟩
  · have m : (op ++ k6.extractLsb' 4 2 ++ BitVec.ofNat 2 ((d.val - 24) / 2) ++ k6.extractLsb' 0 4) &&& (BitVec.allOnes 8 ++ 0#2 ++ 0#2 ++ 0#4) = op ++ 0#2 ++ 0#2 ++ 0#4 := by
      simp only [BitVec.and_append, BitVec.and_zero, BitVec.and_allOnes]
    exact m
  · rw [rdWordPair, e2]
    exact k0 d hd
  · rw [imm6, e1, e3]
    exact Sys2Proof.Laws.RowHit.rejoin (a := 2) (b := 4) k6

theorem Sys2Proof.Laws.RowHit.encIOB_fields (op : BitVec 8) (a : BitVec 5) (b : BitNo) :
    encIOB op a b &&& 0xFF00 = op ++ 0#5 ++ 0#3
      ∧ ioAddr5 (encIOB op a b) = a
      ∧ bitLow (encIOB op a b) = b := by
  have kb : ∀ b : BitNo, Fin.ofNat 8 (BitVec.ofNat 3 b.val).toNat = b := by decide
  have e1 : (encIOB op a b).extractLsb' 3 5 = a :=
    Sys2Proof.Laws.RowHit.field _ _ _
  have e2 : (encIOB op a b).extractLsb' 0 3 = BitVec.ofNat 3 b.val :=
    Sys2Proof.Laws.RowHit.low _ _
  refine ⟨?_, ?_, ?_⟩
  · have m : (op ++ a ++ BitVec.ofNat 3 b.val) &&& (BitVec.allOnes 8 ++ 0#5 ++ 0#3) = op ++ 0#5 ++ 0#3 := by
      simp only [BitVec.and_append, BitVec.and_zero, BitVec.and_allOnes]
    exact m
  · rw [ioAddr5, e1]
  · rw [bitLow, e2]
    exact kb b

theorem Sys2Proof.Laws.RowHit.encIO_fields (op : BitVec 5) (d : Reg) (a : BitVec 6) :
    encIO op d a &&& 0xF800 = op ++ 0#2 ++ 0#5 ++ 0#4
      ∧ rd5 (encIO op d a) = d
      ∧ ioAddr6 (encIO op d a) = a := by
  have k0 : ∀ d : Reg, Fin.ofNat 32 (BitVec.ofNat 5 d.val).toNat = d := by decide
  have e1 : (encIO op d a).extractLsb' 9 2 = a.extractLsb' 4 2 :=
    (Sys2Proof.Laws.RowHit.high _ _ 5 2).trans (Sys2Proof.Laws.RowHit.field _ _ _)
  have e2 : (encIO op d a).extractLsb' 4 5 = BitVec.ofNat 5 d.val :=
    Sys2Proof.Laws.RowHit.field _ _ _
  have e3 : (encIO op d a).extractLsb' 0 4 = a.extractLsb' 0 4 :=
    Sys2Proof.Laws.RowHit.low _ _
  refine ⟨?_, ?_, ?_⟩
  · have m : (op ++ a.extractLsb' 4 2 ++ BitVec.ofNat 5 d.val ++ a.extractLsb' 0 4) &&& (BitVec.allOnes 5 ++ 0#2 ++ 0#5 ++ 0#4) = op ++ 0#2 ++ 0#5 ++ 0#4 := by
      simp only [BitVec.and_append, BitVec.and_zero, BitVec.and_allOnes]
    exact m
  · rw [rd5, e2]
    exact k0 d
  · rw [ioAddr6, e1, e3]
    exact Sys2Proof.Laws.RowHit.rejoin (a := 2) (b := 4) a

theorem Sys2Proof.Laws.RowHit.encBR_fields (op : BitVec 6) (f : BitNo) (k : BitVec 7) :
    encBR op f k &&& 0xFC00 = op ++ 0#7 ++ 0#3
      ∧ bitLow (encBR op f k) = f
      ∧ rel7 (encBR op f k) = k := by
  have kb : ∀ b : BitNo, Fin.ofNat 8 (BitVec.ofNat 3 b.val).toNat = b := by decide
  have e1 : (encBR op f k).extractLsb' 3 7 = k :=
    Sys2Proof.Laws.RowHit.field _ _ _
  have e2 : (encBR op f k).extractLsb' 0 3 = BitVec.ofNat 3 f.val :=
    Sys2Proof.Laws.RowHit.low _ _
  refine ⟨?_, ?_, ?_⟩
  · have m : (op ++ k ++ BitVec.ofNat 3 f.val) &&& (BitVec.allOnes 6 ++ 0#7 ++ 0#3) = op ++ 0#7 ++ 0#3 := by
      simp only [BitVec.and_append, BitVec.and_zero, BitVec.and_allOnes]
    exact m
  · rw [bitLow, e2]
    exact kb f
  · rw [rel7, e1]

theorem Sys2Proof.Laws.RowHit.encRB_fields (op : BitVec 7) (d : Reg) (b : BitNo) :
    encRB op d b &&& 0xFE08 = op ++ 0#5 ++ 0b0#1 ++ 0#3
      ∧ rd5 (encRB op d b) = d
      ∧ bitLow (encRB op d b) = b := by
  have k0 : ∀ d : Reg, Fin.ofNat 32 (BitVec.ofNat 5 d.val).toNat = d := by decide
  have kb : ∀ b : BitNo, Fin.ofNat 8 (BitVec.ofNat 3 b.val).toNat = b := by decide
  have e1 : (encRB op d b).extractLsb' 4 5 = BitVec.ofNat 5 d.val :=
    (Sys2Proof.Laws.RowHit.high _ _ 1 5).trans (Sys2Proof.Laws.RowHit.field _ _ _)
  have e3 : (encRB op d b).extractLsb' 0 3 = BitVec.ofNat 3 b.val :=
    Sys2Proof.Laws.RowHit.low _ _
  refine ⟨?_, ?_, ?_⟩
  · have m : (op ++ BitVec.ofNat 5 d.val ++ 0b0#1 ++ BitVec.ofNat 3 b.val) &&& (BitVec.allOnes 7 ++ 0#5 ++ BitVec.allOnes 1 ++ 0#3) = op ++ 0#5 ++ 0b0#1 ++ 0#3 := by
      simp only [BitVec.and_append, BitVec.and_zero, BitVec.and_allOnes]
    exact m
  · rw [rd5, e1]
    exact k0 d
  · rw [bitLow, e3]
    exact kb b

theorem Sys2Proof.Laws.RowHit.encS_fields (op : BitVec 9) (f : BitNo) :
    encS op f &&& 0xFF8F = op ++ 0#3 ++ 0b1000#4
      ∧ flagNo (encS op f) = f := by
  have kb : ∀ b : BitNo, Fin.ofNat 8 (BitVec.ofNat 3 b.val).toNat = b := by decide
  have e1 : (encS op f).extractLsb' 4 3 = BitVec.ofNat 3 f.val :=
    Sys2Proof.Laws.RowHit.field _ _ _
  refine ⟨?_, ?_⟩
  · have m : (op ++ BitVec.ofNat 3 f.val ++ 0b1000#4) &&& (BitVec.allOnes 9 ++ 0#3 ++ BitVec.allOnes 4) = op ++ 0#3 ++ 0b1000#4 := by
      simp only [BitVec.and_append, BitVec.and_zero, BitVec.and_allOnes]
    exact m
  · rw [flagNo, e1]
    exact kb f

theorem Sys2Proof.Laws.RowHit.encAbs22_fields (low : BitVec 3) (k : BitVec 22) :
    encAbs22 low k &&& 0xFE0E = 0b1001010#7 ++ 0#5 ++ low ++ 0#1 ∧ abs22 (encAbs22 low k) (k.extractLsb' 0 16) = k := by
  have e1 : (encAbs22 low k).extractLsb' 4 5 = k.extractLsb' 17 5 :=
    (Sys2Proof.Laws.RowHit.high _ _ 3 5).trans (Sys2Proof.Laws.RowHit.field _ _ _)
  have e3 : (encAbs22 low k).extractLsb' 0 1 = k.extractLsb' 16 1 := Sys2Proof.Laws.RowHit.low _ _
  refine ⟨?_, ?_⟩
  · have m : (0b1001010#7 ++ k.extractLsb' 17 5 ++ low ++ k.extractLsb' 16 1)
        &&& (BitVec.allOnes 7 ++ 0#5 ++ BitVec.allOnes 3 ++ 0#1) = 0b1001010#7 ++ 0#5 ++ low ++ 0#1 := by
      simp only [BitVec.and_append, BitVec.and_zero, BitVec.and_allOnes]
    exact m
  · rw [abs22, e1, e3]
    apply BitVec.eq_of_getLsbD_eq
    intro i hi
    simp only [BitVec.getLsbD_append, BitVec.getLsbD_extractLsb']
    by_cases h : i < 16
    · simp [h]
    · by_cases h' : i = 16
      · subst h'; simp
      · simp only [h, if_false]
        rw [if_neg (by omega), decide_eq_true (by omega), Bool.true_and, show 17 + (i - 16 - 1) = i by omega]

theorem Sys2Proof.Laws.RowHit.rel_fields (op : BitVec 4) (k : BitVec 12) : (op ++ k) &&& 0xF000 = op ++ 0#12 ∧ rel12 (op ++ k) = k := by
  refine ⟨?_, Sys2Proof.Laws.RowHit.low _ _⟩
  rw [show (0xF000 : Word) = BitVec.allOnes 4 ++ 0#12 from rfl]
  simp only [BitVec.and_append, BitVec.and_zero, BitVec.and_allOnes]

/-! ### One lemma per instruction -/

theorem Sys2Proof.Laws.RowHit.nop : Sys2Proof.Laws.RowHit.Statement (.nop) :=
  fun _ => ⟨opcodeTable[0], List.getElem_mem (by decide), _, [], rfl, rfl, rfl, rfl⟩

theorem Sys2Proof.Laws.RowHit.movw (d : Reg) (r : Reg) : Sys2Proof.Laws.RowHit.Statement (.movw d r) :=
  fun hw =>
    have h := Sys2Proof.Laws.RowHit.encRP_fields 0b00000001#8 d r (Bool.and_eq_true_iff.mp hw).1 (Bool.and_eq_true_iff.mp hw).2
    ⟨opcodeTable[1], List.getElem_mem (by decide), _, [], rfl, decide_eq_true h.1, rfl, congrArg₂ Instr.movw h.2.1 h.2.2⟩

theorem Sys2Proof.Laws.RowHit.muls (d : Reg) (r : Reg) : Sys2Proof.Laws.RowHit.Statement (.muls d r) :=
  fun hw =>
    have h := Sys2Proof.Laws.RowHit.encR4R4_fields 0b00000010#8 d r (Bool.and_eq_true_iff.mp hw).1 (Bool.and_eq_true_iff.mp hw).2
    ⟨opcodeTable[2], List.getElem_mem (by decide), _, [], rfl, decide_eq_true h.1, rfl, congrArg₂ Instr.muls h.2.1 h.2.2⟩

theorem Sys2Proof.Laws.RowHit.mulsu (d : Reg) (r : Reg) : Sys2Proof.Laws.RowHit.Statement (.mulsu d r) :=
  fun hw =>
    have h := Sys2Proof.Laws.RowHit.encR3R3_fields 0b000000110#9 d 0b0#1 r (Bool.and_eq_true_iff.mp hw).1 (Bool.and_eq_true_iff.mp hw).2
    ⟨opcodeTable[3], List.getElem_mem (by decide), _, [], rfl, decide_eq_true h.1, rfl, congrArg₂ Instr.mulsu h.2.1 h.2.2⟩

theorem Sys2Proof.Laws.RowHit.fmul (d : Reg) (r : Reg) : Sys2Proof.Laws.RowHit.Statement (.fmul d r) :=
  fun hw =>
    have h := Sys2Proof.Laws.RowHit.encR3R3_fields 0b000000110#9 d 0b1#1 r (Bool.and_eq_true_iff.mp hw).1 (Bool.and_eq_true_iff.mp hw).2
    ⟨opcodeTable[4], List.getElem_mem (by decide), _, [], rfl, decide_eq_true h.1, rfl, congrArg₂ Instr.fmul h.2.1 h.2.2⟩

theorem Sys2Proof.Laws.RowHit.fmuls (d : Reg) (r : Reg) : Sys2Proof.Laws.RowHit.Statement (.fmuls d r) :=
  fun hw =>
    have h := Sys2Proof.Laws.RowHit.encR3R3_fields 0b000000111#9 d 0b0#1 r (Bool.and_eq_true_iff.mp hw).1 (Bool.and_eq_true_iff.mp hw).2
    ⟨opcodeTable[5], List.getElem_mem (by decide), _, [], rfl, decide_eq_true h.1, rfl, congrArg₂ Instr.fmuls h.2.1 h.2.2⟩

theorem Sys2Proof.Laws.RowHit.fmulsu (d : Reg) (r : Reg) : Sys2Proof.Laws.RowHit.Statement (.fmulsu d r) :=
  fun hw =>
    have h := Sys2Proof.Laws.RowHit.encR3R3_fields 0b000000111#9 d 0b1#1 r (Bool.and_eq_true_iff.mp hw).1 (Bool.and_eq_true_iff.mp hw).2
    ⟨opcodeTable[6], List.getElem_mem (by decide), _, [], rfl, decide_eq_true h.1, rfl, congrArg₂ Instr.fmulsu h.2.1 h.2.2⟩

theorem Sys2Proof.Laws.RowHit.cpc (d : Reg) (r : Reg) : Sys2Proof.Laws.RowHit.Statement (.cpc d r) :=
  fun _ =>
    have h := Sys2Proof.Laws.RowHit.encRR_fields 0b000001#6 d r
    ⟨opcodeTable[7], List.getElem_mem (by decide), _, [], rfl, decide_eq_true h.1, rfl, congrArg₂ Instr.cpc h.2.1 h.2.2⟩

theorem Sys2Proof.Laws.RowHit.sbc (d : Reg) (r : Reg) : Sys2Proof.Laws.RowHit.Statement (.sbc d r) :=
  fun _ =>
    have h := Sys2Proof.Laws.RowHit.encRR_fields 0b000010#6 d r
    ⟨opcodeTable[8], List.getElem_mem (by decide), _, [], rfl, decide_eq_true h.1, rfl, congrArg₂ Instr.sbc h.2.1 h.2.2⟩

theorem Sys2Proof.Laws.RowHit.add (d : Reg) (r : Reg) : Sys2Proof.Laws.RowHit.Statement (.add d r) :=
  fun _ =>
    have h := Sys2Proof.Laws.RowHit.encRR_fields 0b000011#6 d r
    ⟨opcodeTable[9], List.getElem_mem (by decide), _, [], rfl, decide_eq_true h.1, rfl, congrArg₂ Instr.add h.2.1 h.2.2⟩

theorem Sys2Proof.Laws.RowHit.cpse (d : Reg) (r : Reg) : Sys2Proof.Laws.RowHit.Statement (.cpse d r) :=
  fun _ =>
    have h := Sys2Proof.Laws.RowHit.encRR_fields 0b000100#6 d r
    ⟨opcodeTable[10], List.getElem_mem (by decide), _, [], rfl, decide_eq_true h.1, rfl, congrArg₂ Instr.cpse h.2.1 h.2.2⟩

theorem Sys2Proof.Laws.RowHit.cp (d : Reg) (r : Reg) : Sys2Proof.Laws.RowHit.Statement (.cp d r) :=
  fun _ =>
    have h := Sys2Proof.Laws.RowHit.encRR_fields 0b000101#6 d r
    ⟨opcodeTable[11], List.getElem_mem (by decide), _, [], rfl, decide_eq_true h.1, rfl, congrArg₂ Instr.cp h.2.1 h.2.2⟩

theorem Sys2Proof.Laws.RowHit.sub (d : Reg) (r : Reg) : Sys2Proof.Laws.RowHit.Statement (.sub d r) :=
  fun _ =>
    have h := Sys2Proof.Laws.RowHit.encRR_fields 0b000110#6 d r
    ⟨opcodeTable[12], List.getElem_mem (by decide), _, [], rfl, decide_eq_true h.1, rfl, congrArg₂ Instr.sub h.2.1 h.2.2⟩

theorem Sys2Proof.Laws.RowHit.adc (d : Reg) (r : Reg) : Sys2Proof.Laws.RowHit.Statement (.adc d r) :=
  fun _ =>
    have h := Sys2Proof.Laws.RowHit.encRR_fields 0b000111#6 d r
    ⟨opcodeTable[13], List.getElem_mem (by decide), _, [], rfl, decide_eq_true h.1, rfl, congrArg₂ Instr.adc h.2.1 h.2.2⟩

theorem Sys2Proof.Laws.RowHit.and (d : Reg) (r : Reg) : Sys2Proof.Laws.RowHit.Statement (.and d r) :=
  fun _ =>
    have h := Sys2Proof.Laws.RowHit.encRR_fields 0b001000#6 d r
    ⟨opcodeTable[14], List.getElem_mem (by decide), _, [], rfl, decide_eq_true h.1, rfl, congrArg₂ Instr.and h.2.1 h.2.2⟩

theorem Sys2Proof.Laws.RowHit.eor (d : Reg) (r : Reg) : Sys2Proof.Laws.RowHit.Statement (.eor d r) :=
  fun _ =>
    have h := Sys2Proof.Laws.RowHit.encRR_fields 0b001001#6 d r
    ⟨opcodeTable[15], List.getElem_mem (by decide), _, [], rfl, decide_eq_true h.1, rfl, congrArg₂ Instr.eor h.2.1 h.2.2⟩

theorem Sys2Proof.Laws.RowHit.or (d : Reg) (r : Reg) : Sys2Proof.Laws.RowHit.Statement (.or d r) :=
  fun _ =>
    have h := Sys2Proof.Laws.RowHit.encRR_fields 0b001010#6 d r
    ⟨opcodeTable[16], List.getElem_mem (by decide), _, [], rfl, decide_eq_true h.1, rfl, congrArg₂ Instr.or h.2.1 h.2.2⟩

theorem Sys2Proof.Laws.RowHit.mov (d : Reg) (r : Reg) : Sys2Proof.Laws.RowHit.Statement (.mov d r) :=
  fun _ =>
    have h := Sys2Proof.Laws.RowHit.encRR_fields 0b001011#6 d r
    ⟨opcodeTable[17], List.getElem_mem (by decide), _, [], rfl, decide_eq_true h.1, rfl, congrArg₂ Instr.mov h.2.1 h.2.2⟩

theorem Sys2Proof.Laws.RowHit.cpi (d : Reg) (k8 : Byte) : Sys2Proof.Laws.RowHit.Statement (.cpi d k8) :=
  fun hw =>
    have h := Sys2Proof.Laws.RowHit.encRI_fields 0b0011#4 d k8 hw
    ⟨opcodeTable[18], List.getElem_mem (by decide), _, [], rfl, decide_eq_true h.1, rfl, congrArg₂ Instr.cpi h.2.1 h.2.2⟩

theorem Sys2Proof.Laws.RowHit.sbci (d : Reg) (k8 : Byte) : Sys2Proof.Laws.RowHit.Statement (.sbci d k8) :=
  fun hw =>
    have h := Sys2Proof.Laws.RowHit.encRI_fields 0b0100#4 d k8 hw
    ⟨opcodeTable[19], List.getElem_mem (by decide), _, [], rfl, decide_eq_true h.1, rfl, congrArg₂ Instr.sbci h.2.1 h.2.2⟩

theorem Sys2Proof.Laws.RowHit.subi (d : Reg) (k8 : Byte) : Sys2Proof.Laws.RowHit.Statement (.subi d k8) :=
  fun hw =>
    have h := Sys2Proof.Laws.RowHit.encRI_fields 0b0101#4 d k8 hw
    ⟨opcodeTable[20], List.getElem_mem (by decide), _, [], rfl, decide_eq_true h.1, rfl, congrArg₂ Instr.subi h.2.1 h.2.2⟩

theorem Sys2Proof.Laws.RowHit.ori (d : Reg) (k8 : Byte) : Sys2Proof.Laws.RowHit.Statement (.ori d k8) :=
  fun hw =>
    have h := Sys2Proof.Laws.RowHit.encRI_fields 0b0110#4 d k8 hw
    ⟨opcodeTable[21], List.getElem_mem (by decide), _, [], rfl, decide_eq_true h.1, rfl, congrArg₂ Instr.ori h.2.1 h.2.2⟩

theorem Sys2Proof.Laws.RowHit.andi (d : Reg) (k8 : Byte) : Sys2Proof.Laws.RowHit.Statement (.andi d k8) :=
  fun hw =>
    have h := Sys2Proof.Laws.RowHit.encRI_fields 0b0111#4 d k8 hw
    ⟨opcodeTable[22], List.getElem_mem (by decide), _, [], rfl, decide_eq_true h.1, rfl, congrArg₂ Instr.andi h.2.1 h.2.2⟩

theorem Sys2Proof.Laws.RowHit.lddZ (d : Reg) (q : BitVec 6) : Sys2Proof.Laws.RowHit.Statement (.lddZ d q) :=
  fun _ =>
    have h := Sys2Proof.Laws.RowHit.encDisp_fields 0b0#1 d 0b0#1 q
    ⟨opcodeTable[23], List.getElem_mem (by decide), _, [], rfl, decide_eq_true h.1, rfl, congrArg₂ Instr.lddZ h.2.1 h.2.2⟩

theorem Sys2Proof.Laws.RowHit.lddY (d : Reg) (q : BitVec 6) : Sys2Proof.Laws.RowHit.Statement (.lddY d q) :=
  fun _ =>
    have h := Sys2Proof.Laws.RowHit.encDisp_fields 0b0#1 d 0b1#1 q
    ⟨opcodeTable[24], List.getElem_mem (by decide), _, [], rfl, decide_eq_true h.1, rfl, congrArg₂ Instr.lddY h.2.1 h.2.2⟩

theorem Sys2Proof.Laws.RowHit.stdZ (q : BitVec 6) (r : Reg) : Sys2Proof.Laws.RowHit.Statement (.stdZ q r) :=
  fun _ =>
    have h := Sys2Proof.Laws.RowHit.encDisp_fields 0b1#1 r 0b0#1 q
    ⟨opcodeTable[25], List.getElem_mem (by decide), _, [], rfl, decide_eq_true h.1, rfl, congrArg₂ Instr.stdZ h.2.2 h.2.1⟩

theorem Sys2Proof.Laws.RowHit.stdY (q : BitVec 6) (r : Reg) : Sys2Proof.Laws.RowHit.Statement (.stdY q r) :=
  fun _ =>
    have h := Sys2Proof.Laws.RowHit.encDisp_fields 0b1#1 r 0b1#1 q
    ⟨opcodeTable[26], List.getElem_mem (by decide), _, [], rfl, decide_eq_true h.1, rfl, congrArg₂ Instr.stdY h.2.2 h.2.1⟩

theorem Sys2Proof.Laws.RowHit.lds (d : Reg) (a : Word) : Sys2Proof.Laws.RowHit.Statement (.lds d a) :=
  fun _ =>
    have h := Sys2Proof.Laws.RowHit.encR_fields 0b1001000#7 d 0b0000#4
    ⟨opcodeTable[27], List.getElem_mem (by decide), _, [a], rfl, decide_eq_true h.1, rfl, congrArg (fun x => Instr.lds x a) h.2⟩

theorem Sys2Proof.Laws.RowHit.ldZInc (d : Reg) : Sys2Proof.Laws.RowHit.Statement (.ldZInc d) :=
  fun _ =>
    have h := Sys2Proof.Laws.RowHit.encR_fields 0b1001000#7 d 0b0001#4
    ⟨opcodeTable[28], List.getElem_mem (by decide), _, [], rfl, decide_eq_true h.1, rfl, congrArg Instr.ldZInc h.2⟩

theorem Sys2Proof.Laws.RowHit.ldZDec (d : Reg) : Sys2Proof.Laws.RowHit.Statement (.ldZDec d) :=
  fun _ =>
    have h := Sys2Proof.Laws.RowHit.encR_fields 0b1001000#7 d 0b0010#4
    ⟨opcodeTable[29], List.getElem_mem (by decide), _, [], rfl, decide_eq_true h.1, rfl, congrArg Instr.ldZDec h.2⟩

theorem Sys2Proof.Laws.RowHit.lpmZ (d : Reg) : Sys2Proof.Laws.RowHit.Statement (.lpmZ d) :=
  fun _ =>
    have h := Sys2Proof.Laws.RowHit.encR_fields 0b1001000#7 d 0b0100#4
    ⟨opcodeTable[30], List.getElem_mem (by decide), _, [], rfl, decide_eq_true h.1, rfl, congrArg Instr.lpmZ h.2⟩

theorem Sys2Proof.Laws.RowHit.lpmZInc (d : Reg) : Sys2Proof.Laws.RowHit.Statement (.lpmZInc d) :=
  fun _ =>
    have h := Sys2Proof.Laws.RowHit.encR_fields 0b1001000#7 d 0b0101#4
    ⟨opcodeTable[31], List.getElem_mem (by decide), _, [], rfl, decide_eq_true h.1, rfl, congrArg Instr.lpmZInc h.2⟩

theorem Sys2Proof.Laws.RowHit.ldYInc (d : Reg) : Sys2Proof.Laws.RowHit.Statement (.ldYInc d) :=
  fun _ =>
    have h := Sys2Proof.Laws.RowHit.encR_fields 0b1001000#7 d 0b1001#4
    ⟨opcodeTable[32], List.getElem_mem (by decide), _, [], rfl, decide_eq_true h.1, rfl, congrArg Instr.ldYInc h.2⟩

theorem Sys2Proof.Laws.RowHit.ldYDec (d : Reg) : Sys2Proof.Laws.RowHit.Statement (.ldYDec d) :=
  fun _ =>
    have h := Sys2Proof.Laws.RowHit.encR_fields 0b1001000#7 d 0b1010#4
    ⟨opcodeTable[33], List.getElem_mem (by decide), _, [], rfl, decide_eq_true h.1, rfl, congrArg Instr.ldYDec h.2⟩

theorem Sys2Proof.Laws.RowHit.ldX (d : Reg) : Sys2Proof.Laws.RowHit.Statement (.ldX d) :=
  fun _ =>
    have h := Sys2Proof.Laws.RowHit.encR_fields 0b1001000#7 d 0b1100#4
    ⟨opcodeTable[34], List.getElem_mem (by decide), _, [], rfl, decide_eq_true h.1, rfl, congrArg Instr.ldX h.2⟩

theorem Sys2Proof.Laws.RowHit.ldXInc (d : Reg) : Sys2Proof.Laws.RowHit.Statement (.ldXInc d) :=
  fun _ =>
    have h := Sys2Proof.Laws.RowHit.encR_fields 0b1001000#7 d 0b1101#4
    ⟨opcodeTable[35], List.getElem_mem (by decide), _, [], rfl, decide_eq_true h.1, rfl, congrArg Instr.ldXInc h.2⟩

theorem Sys2Proof.Laws.RowHit.ldXDec (d : Reg) : Sys2Proof.Laws.RowHit.Statement (.ldXDec d) :=
  fun _ =>
    have h := Sys2Proof.Laws.RowHit.encR_fields 0b1001000#7 d 0b1110#4
    ⟨opcodeTable[36], List.getElem_mem (by decide), _, [], rfl, decide_eq_true h.1, rfl, congrArg Instr.ldXDec h.2⟩

theorem Sys2Proof.Laws.RowHit.pop (d : Reg) : Sys2Proof.Laws.RowHit.Statement (.pop d) :=
  fun _ =>
    have h := Sys2Proof.Laws.RowHit.encR_fields 0b1001000#7 d 0b1111#4
    ⟨opcodeTable[37], List.getElem_mem (by decide), _, [], rfl, decide_eq_true h.1, rfl, congrArg Instr.pop h.2⟩

theorem Sys2Proof.Laws.RowHit.sts (a : Word) (r : Reg) : Sys2Proof.Laws.RowHit.Statement (.sts a r) :=
  fun _ =>
    have h := Sys2Proof.Laws.RowHit.encR_fields 0b1001001#7 r 0b0000#4
    ⟨opcodeTable[38], List.getElem_mem (by decide), _, [a], rfl, decide_eq_true h.1, rfl, congrArg (Instr.sts a) h.2⟩

theorem Sys2Proof.Laws.RowHit.stZInc (r : Reg) : Sys2Proof.Laws.RowHit.Statement (.stZInc r) :=
  fun _ =>
    have h := Sys2Proof.Laws.RowHit.encR_fields 0b1001001#7 r 0b0001#4
    ⟨opcodeTable[39], List.getElem_mem (by decide), _, [], rfl, decide_eq_true h.1, rfl, congrArg Instr.stZInc h.2⟩

theorem Sys2Proof.Laws.RowHit.stZDec (r : Reg) : Sys2Proof.Laws.RowHit.Statement (.stZDec r) :=
  fun _ =>
    have h := Sys2Proof.Laws.RowHit.encR_fields 0b1001001#7 r 0b0010#4
    ⟨opcodeTable[40], List.getElem_mem (by decide), _, [], rfl, decide_eq_true h.1, rfl, congrArg Instr.stZDec h.2⟩

theorem Sys2Proof.Laws.RowHit.stYInc (r : Reg) : Sys2Proof.Laws.RowHit.Statement (.stYInc r) :=
  fun _ =>
    have h := Sys2Proof.Laws.RowHit.encR_fields 0b1001001#7 r 0b1001#4
    ⟨opcodeTable[41], List.getElem_mem (by decide), _, [], rfl, decide_eq_true h.1, rfl, congrArg Instr.stYInc h.2⟩

theorem Sys2Proof.Laws.RowHit.stYDec (r : Reg) : Sys2Proof.Laws.RowHit.Statement (.stYDec r) :=
  fun _ =>
    have h := Sys2Proof.Laws.RowHit.encR_fields 0b1001001#7 r 0b1010#4
    ⟨opcodeTable[42], List.getElem_mem (by decide), _, [], rfl, decide_eq_true h.1, rfl, congrArg Instr.stYDec h.2⟩

theorem Sys2Proof.Laws.RowHit.stX (r : Reg) : Sys2Proof.Laws.RowHit.Statement (.stX r) :=
  fun _ =>
    have h := Sys2Proof.Laws.RowHit.encR_fields 0b1001001#7 r 0b1100#4
    ⟨opcodeTable[43], List.getElem_mem (by decide), _, [], rfl, decide_eq_true h.1, rfl, congrArg Instr.stX h.2⟩

theorem Sys2Proof.Laws.RowHit.stXInc (r : Reg) : Sys2Proof.Laws.RowHit.Statement (.stXInc r) :=
  fun _ =>
    have h := Sys2Proof.Laws.RowHit.encR_fields 0b1001001#7 r 0b1101#4
    ⟨opcodeTable[44], List.getElem_mem (by decide), _, [], rfl, decide_eq_true h.1, rfl, congrArg Instr.stXInc h.2⟩

theorem Sys2Proof.Laws.RowHit.stXDec (r : Reg) : Sys2Proof.Laws.RowHit.Statement (.stXDec r) :=
  fun _ =>
    have h := Sys2Proof.Laws.RowHit.encR_fields 0b1001001#7 r 0b1110#4
    ⟨opcodeTable[45], List.getElem_mem (by decide), _, [], rfl, decide_eq_true h.1, rfl, congrArg Instr.stXDec h.2⟩

theorem Sys2Proof.Laws.RowHit.push (r : Reg) : Sys2Proof.Laws.RowHit.Statement (.push r) :=
  fun _ =>
    have h := Sys2Proof.Laws.RowHit.encR_fields 0b1001001#7 r 0b1111#4
    ⟨opcodeTable[46], List.getElem_mem (by decide), _, [], rfl, decide_eq_true h.1, rfl, congrArg Instr.push h.2⟩

theorem Sys2Proof.Laws.RowHit.com (d : Reg) : Sys2Proof.Laws.RowHit.Statement (.com d) :=
  fun _ =>
    have h := Sys2Proof.Laws.RowHit.encR_fields 0b1001010#7 d 0b0000#4
    ⟨opcodeTable[47], List.getElem_mem (by decide), _, [], rfl, decide_eq_true h.1, rfl, congrArg Instr.com h.2⟩

theorem Sys2Proof.Laws.RowHit.neg (d : Reg) : Sys2Proof.Laws.RowHit.Statement (.neg d) :=
  fun _ =>
    have h := Sys2Proof.Laws.RowHit.encR_fields 0b1001010#7 d 0b0001#4
    ⟨opcodeTable[48], List.getElem_mem (by decide), _, [], rfl, decide_eq_true h.1, rfl, congrArg Instr.neg h.2⟩

theorem Sys2Proof.Laws.RowHit.swap (d : Reg) : Sys2Proof.Laws.RowHit.Statement (.swap d) :=
  fun _ =>
    have h := Sys2Proof.Laws.RowHit.encR_fields 0b1001010#7 d 0b0010#4
    ⟨opcodeTable[49], List.getElem_mem (by decide), _, [], rfl, decide_eq_true h.1, rfl, congrArg Instr.swap h.2⟩

theorem Sys2Proof.Laws.RowHit.inc (d : Reg) : Sys2Proof.Laws.RowHit.Statement (.inc d) :=
  fun _ =>
    have h := Sys2Proof.Laws.RowHit.encR_fields 0b1001010#7 d 0b0011#4
    ⟨opcodeTable[50], List.getElem_mem (by decide), _, [], rfl, decide_eq_true h.1, rfl, congrArg Instr.inc h.2⟩

theorem Sys2Proof.Laws.RowHit.asr (d : Reg) : Sys2Proof.Laws.RowHit.Statement (.asr d) :=
  fun _ =>
    have h := Sys2Proof.Laws.RowHit.encR_fields 0b1001010#7 d 0b0101#4
    ⟨opcodeTable[51], List.getElem_mem (by decide), _, [], rfl, decide_eq_true h.1, rfl, congrArg Instr.asr h.2⟩

theorem Sys2Proof.Laws.RowHit.lsr (d : Reg) : Sys2Proof.Laws.RowHit.Statement (.lsr d) :=
  fun _ =>
    have h := Sys2Proof.Laws.RowHit.encR_fields 0b1001010#7 d 0b0110#4
    ⟨opcodeTable[52], List.getElem_mem (by decide), _, [], rfl, decide_eq_true h.1, rfl, congrArg Instr.lsr h.2⟩

theorem Sys2Proof.Laws.RowHit.ror (d : Reg) : Sys2Proof.Laws.RowHit.Statement (.ror d) :=
  fun _ =>
    have h := Sys2Proof.Laws.RowHit.encR_fields 0b1001010#7 d 0b0111#4
    ⟨opcodeTable[53], List.getElem_mem (by decide), _, [], rfl, decide_eq_true h.1, rfl, congrArg Instr.ror h.2⟩

theorem Sys2Proof.Laws.RowHit.bset (f : BitNo) : Sys2Proof.Laws.RowHit.Statement (.bset f) :=
  fun _ =>
    have h := Sys2Proof.Laws.RowHit.encS_fields 0b100101000#9 f
    ⟨opcodeTable[54], List.getElem_mem (by decide), _, [], rfl, decide_eq_true h.1, rfl, congrArg Instr.bset h.2⟩

theorem Sys2Proof.Laws.RowHit.bclr (f : BitNo) : Sys2Proof.Laws.RowHit.Statement (.bclr f) :=
  fun _ =>
    have h := Sys2Proof.Laws.RowHit.encS_fields 0b100101001#9 f
    ⟨opcodeTable[55], List.getElem_mem (by decide), _, [], rfl, decide_eq_true h.1, rfl, congrArg Instr.bclr h.2⟩

theorem Sys2Proof.Laws.RowHit.ijmp : Sys2Proof.Laws.RowHit.Statement (.ijmp) :=
  fun _ => ⟨opcodeTable[62], List.getElem_mem (by decide), _, [], rfl, rfl, rfl, rfl⟩

theorem Sys2Proof.Laws.RowHit.dec (d : Reg) : Sys2Proof.Laws.RowHit.Statement (.dec d) :=
  fun _ =>
    have h := Sys2Proof.Laws.RowHit.encR_fields 0b1001010#7 d 0b1010#4
    ⟨opcodeTable[64], List.getElem_mem (by decide), _, [], rfl, decide_eq_true h.1, rfl, congrArg Instr.dec h.2⟩

theorem Sys2Proof.Laws.RowHit.jmp (k : BitVec 22) : Sys2Proof.Laws.RowHit.Statement (.jmp k) :=
  fun _ =>
    have h := Sys2Proof.Laws.RowHit.encAbs22_fields 0b110#3 k
    ⟨opcodeTable[65], List.getElem_mem (by decide), _, [k.extractLsb' 0 16], rfl, decide_eq_true h.1, rfl, congrArg Instr.jmp h.2⟩

theorem Sys2Proof.Laws.RowHit.call (k : BitVec 22) : Sys2Proof.Laws.RowHit.Statement (.call k) :=
  fun _ =>
    have h := Sys2Proof.Laws.RowHit.encAbs22_fields 0b111#3 k
    ⟨opcodeTable[66], List.getElem_mem (by decide), _, [k.extractLsb' 0 16], rfl, decide_eq_true h.1, rfl, congrArg Instr.call h.2⟩

theorem Sys2Proof.Laws.RowHit.ret : Sys2Proof.Laws.RowHit.Statement (.ret) :=
  fun _ => ⟨opcodeTable[56], List.getElem_mem (by decide), _, [], rfl, rfl, rfl, rfl⟩

theorem Sys2Proof.Laws.RowHit.icall : Sys2Proof.Laws.RowHit.Statement (.icall) :=
  fun _ => ⟨opcodeTable[63], List.getElem_mem (by decide), _, [], rfl, rfl, rfl, rfl⟩

theorem Sys2Proof.Laws.RowHit.reti : Sys2Proof.Laws.RowHit.Statement (.reti) :=
  fun _ => ⟨opcodeTable[57], List.getElem_mem (by decide), _, [], rfl, rfl, rfl, rfl⟩

theorem Sys2Proof.Laws.RowHit.sleep : Sys2Proof.Laws.RowHit.Statement (.sleep) :=
  fun _ => ⟨opcodeTable[58], List.getElem_mem (by decide), _, [], rfl, rfl, rfl, rfl⟩

theorem Sys2Proof.Laws.RowHit.brk : Sys2Proof.Laws.RowHit.Statement (.brk) :=
  fun _ => ⟨opcodeTable[59], List.getElem_mem (by decide), _, [], rfl, rfl, rfl, rfl⟩

theorem Sys2Proof.Laws.RowHit.wdr : Sys2Proof.Laws.RowHit.Statement (.wdr) :=
  fun _ => ⟨opcodeTable[60], List.getElem_mem (by decide), _, [], rfl, rfl, rfl, rfl⟩

theorem Sys2Proof.Laws.RowHit.lpm : Sys2Proof.Laws.RowHit.Statement (.lpm) :=
  fun _ => ⟨opcodeTable[61], List.getElem_mem (by decide), _, [], rfl, rfl, rfl, rfl⟩

theorem Sys2Proof.Laws.RowHit.adiw (d : Reg) (k6 : BitVec 6) : Sys2Proof.Laws.RowHit.Statement (.adiw d k6) :=
  fun hw =>
    have h := Sys2Proof.Laws.RowHit.encWI_fields 0b10010110#8 d k6 hw
    ⟨opcodeTable[67], List.getElem_mem (by decide), _, [], rfl, decide_eq_true h.1, rfl, congrArg₂ Instr.adiw h.2.1 h.2.2⟩

theorem Sys2Proof.Laws.RowHit.sbiw (d : Reg) (k6 : BitVec 6) : Sys2Proof.Laws.RowHit.Statement (.sbiw d k6) :=
  fun hw =>
    have h := Sys2Proof.Laws.RowHit.encWI_fields 0b10010111#8 d k6 hw
    ⟨opcodeTable[68], List.getElem_mem (by decide), _, [], rfl, decide_eq_true h.1, rfl, congrArg₂ Instr.sbiw h.2.1 h.2.2⟩

theorem Sys2Proof.Laws.RowHit.cbi (a : BitVec 5) (b : BitNo) : Sys2Proof.Laws.RowHit.Statement (.cbi a b) :=
  fun _ =>
    have h := Sys2Proof.Laws.RowHit.encIOB_fields 0b10011000#8 a b
    ⟨opcodeTable[69], List.getElem_mem (by decide), _, [], rfl, decide_eq_true h.1, rfl, congrArg₂ Instr.cbi h.2.1 h.2.2⟩

theorem Sys2Proof.Laws.RowHit.sbic (a : BitVec 5) (b : BitNo) : Sys2Proof.Laws.RowHit.Statement (.sbic a b) :=
  fun _ =>
    have h := Sys2Proof.Laws.RowHit.encIOB_fields 0b10011001#8 a b
    ⟨opcodeTable[70], List.getElem_mem (by decide), _, [], rfl, decide_eq_true h.1, rfl, congrArg₂ Instr.sbic h.2.1 h.2.2⟩

theorem Sys2Proof.Laws.RowHit.sbi (a : BitVec 5) (b : BitNo) : Sys2Proof.Laws.RowHit.Statement (.sbi a b) :=
  fun _ =>
    have h := Sys2Proof.Laws.RowHit.encIOB_fields 0b10011010#8 a b
    ⟨opcodeTable[71], List.getElem_mem (by decide), _, [], rfl, decide_eq_true h.1, rfl, congrArg₂ Instr.sbi h.2.1 h.2.2⟩

theorem Sys2Proof.Laws.RowHit.sbis (a : BitVec 5) (b : BitNo) : Sys2Proof.Laws.RowHit.Statement (.sbis a b) :=
  fun _ =>
    have h := Sys2Proof.Laws.RowHit.encIOB_fields 0b10011011#8 a b
    ⟨opcodeTable[72], List.getElem_mem (by decide), _, [], rfl, decide_eq_true h.1, rfl, congrArg₂ Instr.sbis h.2.1 h.2.2⟩

theorem Sys2Proof.Laws.RowHit.mul (d : Reg) (r : Reg) : Sys2Proof.Laws.RowHit.Statement (.mul d r) :=
  fun _ =>
    have h := Sys2Proof.Laws.RowHit.encRR_fields 0b100111#6 d r
    ⟨opcodeTable[73], List.getElem_mem (by decide), _, [], rfl, decide_eq_true h.1, rfl, congrArg₂ Instr.mul h.2.1 h.2.2⟩

theorem Sys2Proof.Laws.RowHit.ioIn (d : Reg) (a : BitVec 6) : Sys2Proof.Laws.RowHit.Statement (.ioIn d a) :=
  fun _ =>
    have h := Sys2Proof.Laws.RowHit.encIO_fields 0b10110#5 d a
    ⟨opcodeTable[74], List.getElem_mem (by decide), _, [], rfl, decide_eq_true h.1, rfl, congrArg₂ Instr.ioIn h.2.1 h.2.2⟩

theorem Sys2Proof.Laws.RowHit.ioOut (a : BitVec 6) (r : Reg) : Sys2Proof.Laws.RowHit.Statement (.ioOut a r) :=
  fun _ =>
    have h := Sys2Proof.Laws.RowHit.encIO_fields 0b10111#5 r a
    ⟨opcodeTable[75], List.getElem_mem (by decide), _, [], rfl, decide_eq_true h.1, rfl, congrArg₂ Instr.ioOut h.2.2 h.2.1⟩

theorem Sys2Proof.Laws.RowHit.rjmp (k : BitVec 12) : Sys2Proof.Laws.RowHit.Statement (.rjmp k) :=
  fun _ =>
    have h := Sys2Proof.Laws.RowHit.rel_fields 0b1100#4 k
    ⟨opcodeTable[76], List.getElem_mem (by decide), _, [], rfl, decide_eq_true h.1, rfl, congrArg Instr.rjmp h.2⟩

theorem Sys2Proof.Laws.RowHit.rcall (k : BitVec 12) : Sys2Proof.Laws.RowHit.Statement (.rcall k) :=
  fun _ =>
    have h := Sys2Proof.Laws.RowHit.rel_fields 0b1101#4 k
    ⟨opcodeTable[77], List.getElem_mem (by decide), _, [], rfl, decide_eq_true h.1, rfl, congrArg Instr.rcall h.2⟩

theorem Sys2Proof.Laws.RowHit.ldi (d : Reg) (k8 : Byte) : Sys2Proof.Laws.RowHit.Statement (.ldi d k8) :=
  fun hw =>
    have h := Sys2Proof.Laws.RowHit.encRI_fields 0b1110#4 d k8 hw
    ⟨opcodeTable[78], List.getElem_mem (by decide), _, [], rfl, decide_eq_true h.1, rfl, congrArg₂ Instr.ldi h.2.1 h.2.2⟩

theorem Sys2Proof.Laws.RowHit.brbs (f : BitNo) (k : BitVec 7) : Sys2Proof.Laws.RowHit.Statement (.brbs f k) :=
  fun _ =>
    have h := Sys2Proof.Laws.RowHit.encBR_fields 0b111100#6 f k
    ⟨opcodeTable[79], List.getElem_mem (by decide), _, [], rfl, decide_eq_true h.1, rfl, congrArg₂ Instr.brbs h.2.1 h.2.2⟩

theorem Sys2Proof.Laws.RowHit.brbc (f : BitNo) (k : BitVec 7) : Sys2Proof.Laws.RowHit.Statement (.brbc f k) :=
  fun _ =>
    have h := Sys2Proof.Laws.RowHit.encBR_fields 0b111101#6 f k
    ⟨opcodeTable[80], List.getElem_mem (by decide), _, [], rfl, decide_eq_true h.1, rfl, congrArg₂ Instr.brbc h.2.1 h.2.2⟩

theorem Sys2Proof.Laws.RowHit.bld (d : Reg) (b : BitNo) : Sys2Proof.Laws.RowHit.Statement (.bld d b) :=
  fun _ =>
    have h := Sys2Proof.Laws.RowHit.encRB_fields 0b1111100#7 d b
    ⟨opcodeTable[81], List.getElem_mem (by decide), _, [], rfl, decide_eq_true h.1, rfl, congrArg₂ Instr.bld h.2.1 h.2.2⟩

theorem Sys2Proof.Laws.RowHit.bst (d : Reg) (b : BitNo) : Sys2Proof.Laws.RowHit.Statement (.bst d b) :=
  fun _ =>
    have h := Sys2Proof.Laws.RowHit.encRB_fields 0b1111101#7 d b
    ⟨opcodeTable[82], List.getElem_mem (by decide), _, [], rfl, decide_eq_true h.1, rfl, congrArg₂ Instr.bst h.2.1 h.2.2⟩

theorem Sys2Proof.Laws.RowHit.sbrc (r : Reg) (b : BitNo) : Sys2Proof.Laws.RowHit.Statement (.sbrc r b) :=
  fun _ =>
    have h := Sys2Proof.Laws.RowHit.encRB_fields 0b1111110#7 r b
    ⟨opcodeTable[83], List.getElem_mem (by decide), _, [], rfl, decide_eq_true h.1, rfl, congrArg₂ Instr.sbrc h.2.1 h.2.2⟩

theorem Sys2Proof.Laws.RowHit.sbrs (r : Reg) (b : BitNo) : Sys2Proof.Laws.RowHit.Statement (.sbrs r b) :=
  fun _ =>
    have h := Sys2Proof.Laws.RowHit.encRB_fields 0b1111111#7 r b
    ⟨opcodeTable[84], List.getElem_mem (by decide), _, [], rfl, decide_eq_true h.1, rfl, congrArg₂ Instr.sbrs h.2.1 h.2.2⟩

end
end

