-- ==== Sys2Proof/Tests/Slice0.lean ====
section
/-! SUPPORT. Tests. Expected results are the worked examples of the numbered rules and of spec/95_test_vectors.md, never the
model's own answers; and a witness for the hypotheses of every obligation that has some. -/

namespace Sys2Proof.Tests

open Sys2Proof.Machine

/-! ## Well-formedness: one ill-formed term for each check (10_state.md R21) -/

theorem test_wf_upper : (Instr.ldi 15 0).wellFormed = false ∧ (Instr.muls 16 15).wellFormed = false := by decide

theorem test_wf_upper_low : (Instr.fmul 24 16).wellFormed = false ∧ (Instr.fmul 16 15).wellFormed = false := by decide

theorem test_wf_even : (Instr.movw 1 2).wellFormed = false ∧ (Instr.movw 2 1).wellFormed = false := by decide

theorem test_wf_upper_pair : (Instr.adiw 22 0).wellFormed = false ∧ (Instr.sbiw 25 0).wellFormed = false := by decide

theorem test_wf_accepts : (Instr.movw 24 30).wellFormed = true ∧ (Instr.adiw 30 63).wellFormed = true := by decide

/-! ## Decoding: one word per row of R106, written out from its encoding and the rules' examples -/

theorem test_decode_rows_0_to_9 :
    decodeWords 0x0000 0 = some (.nop)
      ∧ decodeWords 0x01CF 0 = some (.movw 24 30)
      ∧ decodeWords 0x0201 0 = some (.muls 16 17)
      ∧ decodeWords 0x0301 0 = some (.mulsu 16 17)
      ∧ decodeWords 0x0309 0 = some (.fmul 16 17)
      ∧ decodeWords 0x0381 0 = some (.fmuls 16 17)
      ∧ decodeWords 0x0389 0 = some (.fmulsu 16 17)
      ∧ decodeWords 0b0000011100000001 0 = some (.cpc 16 17)
      ∧ decodeWords 0b0000101100000001 0 = some (.sbc 16 17)
      ∧ decodeWords 0b0000111100000001 0 = some (.add 16 17) := by decide

theorem test_decode_rows_10_to_19 :
    decodeWords 0b0001001100000001 0 = some (.cpse 16 17)
      ∧ decodeWords 0b0001011100000001 0 = some (.cp 16 17)
      ∧ decodeWords 0b0001101100000001 0 = some (.sub 16 17)
      ∧ decodeWords 0b0001110000100011 0 = some (.adc 2 3)
      ∧ decodeWords 0b0010001100000001 0 = some (.and 16 17)
      ∧ decodeWords 0b0010010001110111 0 = some (.eor 7 7)
      ∧ decodeWords 0b0010101100000001 0 = some (.or 16 17)
      ∧ decodeWords 0b0010111000010000 0 = some (.mov 1 16)
      ∧ decodeWords 0b0011100000000000 0 = some (.cpi 16 0x80)
      ∧ decodeWords 0b0100000000010000 0 = some (.sbci 17 0) := by decide

theorem test_decode_rows_20_to_29 :
    decodeWords 0b0101000100000000 0 = some (.subi 16 0x10)
      ∧ decodeWords 0b0110100000100000 0 = some (.ori 18 0x80)
      ∧ decodeWords 0b0111000000001111 0 = some (.andi 16 0x0F)
      ∧ decodeWords 0b1000000000110101 0 = some (.lddZ 3 5)
      ∧ decodeWords 0b1010110000101111 0 = some (.lddY 2 63)
      ∧ decodeWords 0b1010111000010111 0 = some (.stdZ 63 1)
      ∧ decodeWords 0b1000001000011010 0 = some (.stdY 2 1)
      ∧ decodeWords 0b1001000001000000 0x0123 = some (.lds 4 0x0123)
      ∧ decodeWords 0b1001000000110001 0 = some (.ldZInc 3)
      ∧ decodeWords 0b1001000000110010 0 = some (.ldZDec 3) := by decide

theorem test_decode_rows_30_to_39 :
    decodeWords 0b1001000001010100 0 = some (.lpmZ 5)
      ∧ decodeWords 0b1001000001010101 0 = some (.lpmZInc 5)
      ∧ decodeWords 0b1001000000101001 0 = some (.ldYInc 2)
      ∧ decodeWords 0b1001000000101010 0 = some (.ldYDec 2)
      ∧ decodeWords 0b1001000000001100 0 = some (.ldX 0)
      ∧ decodeWords 0b1001000000001101 0 = some (.ldXInc 0)
      ∧ decodeWords 0b1001000000001110 0 = some (.ldXDec 0)
      ∧ decodeWords 0b1001000100011111 0 = some (.pop 17)
      ∧ decodeWords 0b1001001001010000 0x0200 = some (.sts 0x0200 5)
      ∧ decodeWords 0b1001001000010001 0 = some (.stZInc 1) := by decide

theorem test_decode_rows_40_to_49 :
    decodeWords 0b1001001000010010 0 = some (.stZDec 1)
      ∧ decodeWords 0b1001001000011001 0 = some (.stYInc 1)
      ∧ decodeWords 0b1001001000011010 0 = some (.stYDec 1)
      ∧ decodeWords 0b1001001000011100 0 = some (.stX 1)
      ∧ decodeWords 0b1001001000011101 0 = some (.stXInc 1)
      ∧ decodeWords 0b1001001000011110 0 = some (.stXDec 1)
      ∧ decodeWords 0b1001001100001111 0 = some (.push 16)
      ∧ decodeWords 0b1001010100000000 0 = some (.com 16)
      ∧ decodeWords 0b1001010100000001 0 = some (.neg 16)
      ∧ decodeWords 0b1001010100000010 0 = some (.swap 16) := by decide

theorem test_decode_rows_50_to_59 :
    decodeWords 0b1001010100000011 0 = some (.inc 16)
      ∧ decodeWords 0b1001010100000101 0 = some (.asr 16)
      ∧ decodeWords 0b1001010100000110 0 = some (.lsr 16)
      ∧ decodeWords 0b1001010100000111 0 = some (.ror 16)
      ∧ decodeWords 0b1001010001111000 0 = some (.bset 7)
      ∧ decodeWords 0b1001010011111000 0 = some (.bclr 7)
      ∧ decodeWords 0b1001010000001001 0 = some (.ijmp)
      ∧ decodeWords 0b1001010100001010 0 = some (.dec 16)
      ∧ decodeWords 0b1001010000001101 0x0000 = some (.jmp 0x10000)
      ∧ decodeWords 0b1001010000001110 0x0456 = some (.call 0x0456) := by decide

theorem test_decode_rows_60_to_69 :
    decodeWords 0b1001010100001000 0 = some (.ret)
      ∧ decodeWords 0b1001010100001001 0 = some (.icall)
      ∧ decodeWords 0b1001010100011000 0 = some (.reti)
      ∧ decodeWords 0b1001010110001000 0 = some (.sleep)
      ∧ decodeWords 0b1001010110011000 0 = some (.brk)
      ∧ decodeWords 0b1001010110101000 0 = some (.wdr)
      ∧ decodeWords 0b1001010111001000 0 = some (.lpm)
      ∧ decodeWords 0b1001011011111111 0 = some (.adiw 30 63)
      ∧ decodeWords 0b1001011100000001 0 = some (.sbiw 24 1)
      ∧ decodeWords 0b1001100000101101 0 = some (.cbi 5 5) := by decide

theorem test_decode_rows_70_to_79 :
    decodeWords 0b1001100100101011 0 = some (.sbic 5 3)
      ∧ decodeWords 0b1001101000101101 0 = some (.sbi 5 5)
      ∧ decodeWords 0b1001101110101000 0 = some (.sbis 0x15 0)
      ∧ decodeWords 0b1001111100000001 0 = some (.mul 16 17)
      ∧ decodeWords 0b1011011100001111 0 = some (.ioIn 16 0x3F)
      ∧ decodeWords 0b1011111100001101 0 = some (.ioOut 0x3D 16)
      ∧ decodeWords 0b1100111111111111 0 = some (.rjmp 0xFFF)
      ∧ decodeWords 0b1101000000010000 0 = some (.rcall 16)
      ∧ decodeWords 0b1110000000000101 0 = some (.ldi 16 5)
      ∧ decodeWords 0b1111001111101001 0 = some (.brbs 1 0b1111101) := by decide

theorem test_decode_rows_80_to_84 :
    decodeWords 0b1111010111111000 0 = some (.brbc 0 63)
      ∧ decodeWords 0b1111100000000111 0 = some (.bld 0 7)
      ∧ decodeWords 0b1111101100000011 0 = some (.bst 16 3)
      ∧ decodeWords 0b1111110100000111 0 = some (.sbrc 16 7)
      ∧ decodeWords 0b1111111000000000 0 = some (.sbrs 0 0) := by decide

theorem test_decode_bytes : decodeTableWord 32 0x0123_9040 = some (.lds 4 0x0123)
    ∧ decodeTableWord 16 0x0F01 = some (.add 16 17) ∧ decodeTableWord 16 0x0001 = none := by decide

/-! ## One instruction (or one step) on a small state -/

/-- A state with some registers and some data bytes set, everything else as after reset. -/
def mk (regs : List (Reg × Byte)) (bytes : List (Nat × Byte)) : State :=
  bytes.foldl (fun s c => s.setByte c.1 c.2) (regs.foldl (fun s c => s.setReg c.1 c.2) State.reset)

/-- The flags set from an SREG byte. -/
def withSreg (v : Byte) (s : State) : State := s.setFlags (flagsOfByte v)

/-- pc and the flash words from it on. -/
def atPc (pc : Word) (words : List Word) (s : State) : State :=
  { s with pc := pc, hasProgram := true, flash := Memory.writeBytes [] (2 * pc.toNat) (bytesOfWords words) }

/-- The next state, if there is one, satisfies `p`. -/
def gives (o : Host.Outcome State Fault Refusal) (p : State → Bool) : Bool :=
  match o with
  | .next t => p t
  | .fault _ => false
  | .refused _ => false

/-- The outcome is this fault. -/
def faultsWith (o : Host.Outcome State Fault Refusal) (f : Fault) : Bool :=
  match o with
  | .next _ => false
  | .fault g => decide (g = f)
  | .refused _ => false

/-- The outcome is this refusal. -/
def refusesWith (o : Host.Outcome State Fault Refusal) (r : Refusal) : Bool :=
  match o with
  | .next _ => false
  | .fault _ => false
  | .refused q => decide (q = r)

/-- R133, its example. -/
theorem test_add :
    gives (exec (.add 16 17) (withSreg 0 (mk [(16, 0x7F), (17, 0x01)] [])))
      (fun t => decide (t.reg 16 = 0x80 ∧ t.flags.toByte = 0x2C ∧ t.pc = 1 ∧ t.cycles = 1)) = true := by decide

/-- R134, its example. -/
theorem test_adc :
    gives (exec (.adc 2 3) (withSreg 0x01 (mk [(2, 0x7F), (3, 0x7F)] [])))
      (fun t => decide (t.reg 2 = 0xFF ∧ t.flags.toByte = 0x2C ∧ t.pc = 1 ∧ t.cycles = 1)) = true := by decide

/-- R135, its example. -/
theorem test_sub :
    gives (exec (.sub 16 17) (withSreg 0 (mk [(17, 0x01)] [])))
      (fun t => decide (t.reg 16 = 0xFF ∧ t.flags.toByte = 0x35 ∧ t.pc = 1 ∧ t.cycles = 1)) = true := by decide

/-- R136, its example. -/
theorem test_subi :
    gives (exec (.subi 16 0x10) (withSreg 0 (mk [(16, 0x0F)] [])))
      (fun t => decide (t.reg 16 = 0xFF ∧ t.flags.toByte = 0x15 ∧ t.pc = 1 ∧ t.cycles = 1)) = true := by decide

/-- R137, its example. -/
theorem test_sbc :
    gives (exec (.sbc 16 17) (withSreg 0x01 (mk [(16, 0x01)] [])))
      (fun t => decide (t.reg 16 = 0x00 ∧ t.flags.toByte = 0x00 ∧ t.pc = 1 ∧ t.cycles = 1)) = true := by decide

/-- R137, its example. -/
theorem test_sbc_chain :
    gives (exec (.sbc 16 17) (withSreg 0x03 (mk [(16, 0x01)] [])))
      (fun t => decide (t.reg 16 = 0x00 ∧ t.flags.toByte = 0x02 ∧ t.pc = 1 ∧ t.cycles = 1)) = true := by decide

/-- R138, its example. -/
theorem test_sbci :
    gives (exec (.sbci 17 0) (withSreg 0x03 (mk [] [])))
      (fun t => decide (t.reg 17 = 0xFF ∧ t.flags.toByte = 0x35 ∧ t.pc = 1 ∧ t.cycles = 1)) = true := by decide

/-- R139, its example. -/
theorem test_cp :
    gives (exec (.cp 16 17) (withSreg 0 (mk [(16, 0x05), (17, 0x06)] [])))
      (fun t => decide (t.reg 16 = 0x05 ∧ t.flags.toByte = 0x35 ∧ t.pc = 1 ∧ t.cycles = 1)) = true := by decide

/-- R140, its example. -/
theorem test_cpc :
    gives (exec (.cpc 16 17) (withSreg 0x02 (mk [(16, 0x12), (17, 0x13)] [])))
      (fun t => decide (t.reg 16 = 0x12 ∧ t.flags.toByte = 0x35 ∧ t.pc = 1 ∧ t.cycles = 1)) = true := by decide

/-- R141, its example. -/
theorem test_cpi :
    gives (exec (.cpi 16 0x80) (withSreg 0 (mk [(16, 0x7F)] [])))
      (fun t => decide (t.reg 16 = 0x7F ∧ t.flags.toByte = 0x0D ∧ t.pc = 1 ∧ t.cycles = 1)) = true := by decide

/-- R142, its example. -/
theorem test_neg :
    gives (exec (.neg 16) (withSreg 0 (mk [(16, 0x80)] [])))
      (fun t => decide (t.reg 16 = 0x80 ∧ t.flags.toByte = 0x0D ∧ t.pc = 1 ∧ t.cycles = 1)) = true := by decide

/-- R143, its example. -/
theorem test_inc :
    gives (exec (.inc 16) (withSreg 0x01 (mk [(16, 0x7F)] [])))
      (fun t => decide (t.reg 16 = 0x80 ∧ t.flags.toByte = 0x0D ∧ t.pc = 1 ∧ t.cycles = 1)) = true := by decide

/-- R144, its example. -/
theorem test_dec :
    gives (exec (.dec 16) (withSreg 0x01 (mk [(16, 0x80)] [])))
      (fun t => decide (t.reg 16 = 0x7F ∧ t.flags.toByte = 0x19 ∧ t.pc = 1 ∧ t.cycles = 1)) = true := by decide

/-- R145, its example. -/
theorem test_adiw :
    gives (exec (.adiw 30 63) (mk [(30, 0xF0)] []))
      (fun t => decide (t.pair 30 = 0x012F ∧ t.flags.toByte = 0 ∧ t.cycles = 2)) = true := by decide

/-- R146, its example. -/
theorem test_sbiw :
    gives (exec (.sbiw 24 1) (mk [(24, 0x01)] []))
      (fun t => decide (t.pair 24 = 0 ∧ t.flags.toByte = 0x02 ∧ t.cycles = 2)) = true := by decide

/-- R151, its example. -/
theorem test_and :
    gives (exec (.and 16 17) (withSreg 0x09 (mk [(16, 0xF0), (17, 0x3C)] [])))
      (fun t => decide (t.reg 16 = 0x30 ∧ t.flags.toByte = 0x01 ∧ t.pc = 1 ∧ t.cycles = 1)) = true := by decide

/-- R152, its example. -/
theorem test_andi :
    gives (exec (.andi 16 0x0F) (withSreg 0 (mk [(16, 0xA5)] [])))
      (fun t => decide (t.reg 16 = 0x05 ∧ t.flags.toByte = 0x00 ∧ t.pc = 1 ∧ t.cycles = 1)) = true := by decide

/-- R153, its example. -/
theorem test_or :
    gives (exec (.or 16 17) (withSreg 0 (mk [(16, 0x80), (17, 0x01)] [])))
      (fun t => decide (t.reg 16 = 0x81 ∧ t.flags.toByte = 0x14 ∧ t.pc = 1 ∧ t.cycles = 1)) = true := by decide

/-- R154, its example. -/
theorem test_ori :
    gives (exec (.ori 18 0x80) (withSreg 0 (mk [] [])))
      (fun t => decide (t.reg 18 = 0x80 ∧ t.flags.toByte = 0x14 ∧ t.pc = 1 ∧ t.cycles = 1)) = true := by decide

/-- R155, its example. -/
theorem test_eor :
    gives (exec (.eor 7 7) (withSreg 0x01 (mk [(7, 0xAB)] [])))
      (fun t => decide (t.reg 7 = 0x00 ∧ t.flags.toByte = 0x03 ∧ t.pc = 1 ∧ t.cycles = 1)) = true := by decide

/-- R156, its example. -/
theorem test_com :
    gives (exec (.com 16) (withSreg 0 (mk [(16, 0x55)] [])))
      (fun t => decide (t.reg 16 = 0xAA ∧ t.flags.toByte = 0x15 ∧ t.pc = 1 ∧ t.cycles = 1)) = true := by decide

/-- R158, its example. -/
theorem test_lsr :
    gives (exec (.lsr 16) (withSreg 0 (mk [(16, 0x03)] [])))
      (fun t => decide (t.reg 16 = 0x01 ∧ t.flags.toByte = 0x19 ∧ t.pc = 1 ∧ t.cycles = 1)) = true := by decide

/-- R159, its example. -/
theorem test_ror :
    gives (exec (.ror 16) (withSreg 0x01 (mk [] [])))
      (fun t => decide (t.reg 16 = 0x80 ∧ t.flags.toByte = 0x0C ∧ t.pc = 1 ∧ t.cycles = 1)) = true := by decide

/-- R160, its example. -/
theorem test_asr :
    gives (exec (.asr 16) (withSreg 0 (mk [(16, 0x81)] [])))
      (fun t => decide (t.reg 16 = 0xC0 ∧ t.flags.toByte = 0x15 ∧ t.pc = 1 ∧ t.cycles = 1)) = true := by decide

/-- R161, its example. -/
theorem test_swap :
    gives (exec (.swap 16) (withSreg 0xFF (mk [(16, 0xA5)] [])))
      (fun t => decide (t.reg 16 = 0x5A ∧ t.flags.toByte = 0xFF ∧ t.pc = 1 ∧ t.cycles = 1)) = true := by decide

/-- R162, its example. -/
theorem test_bset :
    gives (exec (.bset 7) (withSreg 0 (mk [] [])))
      (fun t => decide (t.reg 0 = 0x00 ∧ t.flags.toByte = 0x80 ∧ t.pc = 1 ∧ t.cycles = 1)) = true := by decide

/-- R163, its example. -/
theorem test_bclr :
    gives (exec (.bclr 7) (withSreg 0x81 (mk [] [])))
      (fun t => decide (t.reg 0 = 0x00 ∧ t.flags.toByte = 0x01 ∧ t.pc = 1 ∧ t.cycles = 1)) = true := by decide

/-- R164, its example. -/
theorem test_bst :
    gives (exec (.bst 16 3) (withSreg 0 (mk [(16, 0x08)] [])))
      (fun t => decide (t.reg 16 = 0x08 ∧ t.flags.toByte = 0x40 ∧ t.pc = 1 ∧ t.cycles = 1)) = true := by decide

/-- R165, its example. -/
theorem test_bld :
    gives (exec (.bld 0 7) (withSreg 0x40 (mk [] [])))
      (fun t => decide (t.reg 0 = 0x80 ∧ t.flags.toByte = 0x40 ∧ t.pc = 1 ∧ t.cycles = 1)) = true := by decide

/-- R166, its example. -/
theorem test_sbi :
    gives (exec (.sbi 5 5) (mk [] []))
      (fun t => decide (t.byteAt 0x25 = 0x20 ∧ t.hostLog = [.pinChange .b 0x00 0x20] ∧ t.cycles = 2)) = true := by decide

/-- R167, its example. -/
theorem test_cbi :
    gives (exec (.cbi 5 5) (mk [] [(0x25, 0xFF)]))
      (fun t => decide (t.byteAt 0x25 = 0xDF ∧ t.hostLog = [.pinChange .b 0xFF 0xDF] ∧ t.cycles = 2)) = true := by decide

/-- R171, its example. -/
theorem test_mul :
    gives (exec (.mul 16 17) (mk [(16, 0xFF), (17, 0xFF)] []))
      (fun t => decide (t.pair 0 = 0xFE01 ∧ t.flags.toByte = 0x01 ∧ t.cycles = 2)) = true := by decide

/-- R172, its example. -/
theorem test_muls :
    gives (exec (.muls 16 17) (mk [(16, 0x80), (17, 0x7F)] []))
      (fun t => decide (t.pair 0 = 0xC080 ∧ t.flags.toByte = 0x01 ∧ t.cycles = 2)) = true := by decide

/-- R173, its example. -/
theorem test_mulsu :
    gives (exec (.mulsu 16 17) (mk [(16, 0xFF), (17, 0xFF)] []))
      (fun t => decide (t.pair 0 = 0xFF01 ∧ t.flags.toByte = 0x01 ∧ t.cycles = 2)) = true := by decide

/-- R174, its example. -/
theorem test_fmul :
    gives (exec (.fmul 16 17) (mk [(16, 0x80), (17, 0x80)] []))
      (fun t => decide (t.pair 0 = 0x8000 ∧ t.flags.toByte = 0x00 ∧ t.cycles = 2)) = true := by decide

/-- R175, its example. -/
theorem test_fmuls :
    gives (exec (.fmuls 16 17) (mk [(16, 0xC0), (17, 0x40)] []))
      (fun t => decide (t.pair 0 = 0xE000 ∧ t.flags.toByte = 0x01 ∧ t.cycles = 2)) = true := by decide

/-- R176, its example. -/
theorem test_fmulsu :
    gives (exec (.fmulsu 16 17) (mk [(16, 0x80), (17, 0x80)] []))
      (fun t => decide (t.pair 0 = 0x8000 ∧ t.flags.toByte = 0x01 ∧ t.cycles = 2)) = true := by decide

/-- R180, its example. -/
theorem test_rjmp :
    gives (exec (.rjmp 0x800) (atPc 0x0100 [] (mk [] [])))
      (fun t => decide (t.pc = 0xF901 ∧ t.cycles = 2)) = true := by decide

/-- R181, its example. -/
theorem test_ijmp :
    gives (exec (.ijmp) (mk [(31, 0x12), (30, 0x34)] []))
      (fun t => decide (t.pc = 0x1234 ∧ t.cycles = 2)) = true := by decide

/-- R182, its example. -/
theorem test_jmp :
    gives (exec (.jmp 0x1234) (mk [] []))
      (fun t => decide (t.pc = 0x1234 ∧ t.cycles = 3)) = true := by decide

/-- R182, its example. -/
theorem test_jmp_beyond :
    faultsWith (exec (.jmp 0x10000) (mk [] [])) (.outOfRangeFlash 0x10000) = true := by decide

/-- R183, its example. -/
theorem test_brbs :
    gives (exec (.brbs 1 0b1111101) (withSreg 0x02 (atPc 0x0010 [] (mk [] []))))
      (fun t => decide (t.pc = 0x000E ∧ t.cycles = 2)) = true := by decide

/-- R184, its example. -/
theorem test_brbc :
    gives (exec (.brbc 0 63) (atPc 0x0010 [] (mk [] [])))
      (fun t => decide (t.pc = 0x0050 ∧ t.cycles = 2)) = true := by decide

/-- R186, its example. -/
theorem test_cpse :
    gives (exec (.cpse 16 17) (atPc 0 [0x1301, 0x9000] (mk [(16, 5), (17, 5)] [])))
      (fun t => decide (t.pc = 3 ∧ t.cycles = 3)) = true := by decide

/-- R186, its example. -/
theorem test_cpse_end :
    faultsWith (exec (.cpse 0 0) (atPc 0x3FFF [0x1000] (mk [] []))) (.outOfRangeFlash 0x4000) = true := by decide

/-- R187, its example. -/
theorem test_sbrc :
    gives (exec (.sbrc 16 7) (atPc 0 [0xFD07, 0x0000] (mk [(16, 0x7F)] [])))
      (fun t => decide (t.pc = 2 ∧ t.cycles = 2)) = true := by decide

/-- R188, its example. -/
theorem test_sbrs :
    gives (exec (.sbrs 0 0) (atPc 0 [0xFE00, 0x9250] (mk [(0, 0x01)] [])))
      (fun t => decide (t.pc = 3 ∧ t.cycles = 3)) = true := by decide

/-- R189, its example. -/
theorem test_sbic :
    gives (exec (.sbic 5 3) (atPc 0 [0x992B, 0x940E] (mk [] [])))
      (fun t => decide (t.pc = 3 ∧ t.cycles = 3)) = true := by decide

/-- R190, its example. -/
theorem test_sbis :
    gives (exec (.sbis 0x15 0) (atPc 0 [0x9BA8, 0x0000] (mk [] [(0x35, 0x01)])))
      (fun t => decide (t.pc = 2 ∧ t.cycles = 2)) = true := by decide

/-- R197, its example. -/
theorem test_rcall :
    gives (exec (.rcall 16) (atPc 0x0123 [] (mk [] [])))
      (fun t => decide (t.byteAt 0x0AFF = 0x24 ∧ t.byteAt 0x0AFE = 0x01 ∧ t.sp = 0x0AFD ∧ t.pc = 0x0134)) = true := by decide

/-- R197, its example. -/
theorem test_rcall_low :
    faultsWith (exec (.rcall 0) ((mk [] []).setSp 0x0100)) (.outOfRangeStack 0x00FF) = true := by decide

/-- R198, its example. -/
theorem test_icall :
    gives (exec (.icall) (atPc 0x0200 [] (mk [(31, 0x30)] [])))
      (fun t => decide (t.byteAt 0x0AFF = 0x01 ∧ t.byteAt 0x0AFE = 0x02 ∧ t.pc = 0x3000)) = true := by decide

/-- R199, its example. -/
theorem test_call :
    gives (exec (.call 0x0456) ((atPc 0x0123 [] (mk [] [])).setSp 0x0101))
      (fun t => decide (t.byteAt 0x0101 = 0x25 ∧ t.byteAt 0x0100 = 0x01 ∧ t.sp = 0x00FF ∧ t.pc = 0x0456 ∧ t.cycles = 5)) = true := by decide

/-- R200, its example. -/
theorem test_ret :
    gives (exec (.ret) ((mk [] [(0x0AFE, 0x01), (0x0AFF, 0x25)]).setSp 0x0AFD))
      (fun t => decide (t.pc = 0x0125 ∧ t.sp = 0x0AFF ∧ t.cycles = 5)) = true := by decide

/-- R200, its example. -/
theorem test_ret_high :
    faultsWith (exec .ret ((mk [] []).setSp 0x0AFE)) (.outOfRangeStack 0x0B00) = true := by decide

/-- R201, its example. -/
theorem test_reti :
    gives (exec (.reti) ({ (mk [] [(0x0AFE, 0x01), (0x0AFF, 0x25)]).setSp 0x0AFD with insideInterrupt := true }))
      (fun t => decide (t.pc = 0x0125 ∧ t.flags.toByte = 0x80 ∧ t.insideInterrupt = false)) = true := by decide

/-- R202, its example. -/
theorem test_push :
    gives (exec (.push 16) (mk [(16, 0xAB)] []))
      (fun t => decide (t.byteAt 0x0AFF = 0xAB ∧ t.sp = 0x0AFE ∧ t.cycles = 2)) = true := by decide

/-- R203, its example. -/
theorem test_pop :
    gives (exec (.pop 17) ((mk [] [(0x0AFF, 0xAB)]).setSp 0x0AFE))
      (fun t => decide (t.reg 17 = 0xAB ∧ t.sp = 0x0AFF ∧ t.cycles = 2)) = true := by decide

/-- R210, its example. -/
theorem test_mov :
    gives (exec (.mov 1 16) (mk [(16, 0x5A)] []))
      (fun t => decide (t.reg 1 = 0x5A)) = true := by decide

/-- R211, its example. -/
theorem test_movw :
    gives (exec (.movw 24 30) (mk [(31, 0x12), (30, 0x34)] []))
      (fun t => decide (t.reg 24 = 0x34 ∧ t.reg 25 = 0x12)) = true := by decide

/-- R212, its example. -/
theorem test_ldi :
    gives (exec (.ldi 16 0x05) (mk [] []))
      (fun t => decide (t.reg 16 = 0x05)) = true := by decide

/-- R213, its example. -/
theorem test_lds :
    gives (exec (.lds 4 0x001F) (mk [(31, 0x99)] []))
      (fun t => decide (t.reg 4 = 0x99 ∧ t.pc = 2 ∧ t.cycles = 2)) = true := by decide

/-- R213, its example. -/
theorem test_lds_high :
    faultsWith (exec (.lds 4 0x0B00) (mk [] [])) (.outOfRangeData 0x0B00) = true := by decide

/-- R214, its example. -/
theorem test_ldX :
    gives (exec (.ldX 0) (mk [(27, 0x02)] [(0x0200, 0x11)]))
      (fun t => decide (t.reg 0 = 0x11 ∧ t.ptr .x = 0x0200)) = true := by decide

/-- R215, its example. -/
theorem test_ldXInc :
    gives (exec (.ldXInc 0) (mk [(27, 0x01), (26, 0xFF)] [(0x01FF, 0x22)]))
      (fun t => decide (t.reg 0 = 0x22 ∧ t.ptr .x = 0x0200)) = true := by decide

/-- R216, its example. -/
theorem test_ldXDec :
    gives (exec (.ldXDec 0) (mk [(27, 0x02)] [(0x01FF, 0x33)]))
      (fun t => decide (t.reg 0 = 0x33 ∧ t.ptr .x = 0x01FF)) = true := by decide

/-- R217, its example. -/
theorem test_ldYInc :
    gives (exec (.ldYInc 2) (mk [(29, 0x01), (28, 0x10)] [(0x0110, 0x44)]))
      (fun t => decide (t.reg 2 = 0x44 ∧ t.ptr .y = 0x0111)) = true := by decide

/-- R218, its example. -/
theorem test_ldYDec :
    gives (exec (.ldYDec 2) (mk [(29, 0x01), (28, 0x10)] [(0x010F, 0x55)]))
      (fun t => decide (t.reg 2 = 0x55 ∧ t.ptr .y = 0x010F)) = true := by decide

/-- R219, its example. -/
theorem test_lddY :
    gives (exec (.lddY 2 63) (mk [(29, 0x01)] [(0x013F, 0x66)]))
      (fun t => decide (t.reg 2 = 0x66 ∧ t.ptr .y = 0x0100)) = true := by decide

/-- R220, its example. -/
theorem test_ldZInc :
    gives (exec (.ldZInc 3) (mk [(31, 0x0A), (30, 0xFF)] [(0x0AFF, 0x77)]))
      (fun t => decide (t.reg 3 = 0x77 ∧ t.ptr .z = 0x0B00)) = true := by decide

/-- R221, its example. -/
theorem test_ldZDec :
    gives (exec (.ldZDec 3) (mk [(31, 0x01)] [(0x00FF, 0x88)]))
      (fun t => decide (t.reg 3 = 0x88 ∧ t.ptr .z = 0x00FF)) = true := by decide

/-- R222, its example. -/
theorem test_lddZ :
    gives (exec (.lddZ 3 1) (mk [(0, 0x5C), (31, 0xFF), (30, 0xFF)] []))
      (fun t => decide (t.reg 3 = 0x5C)) = true := by decide

/-- R223, its example. -/
theorem test_sts :
    gives (exec (.sts 0x0010 5) (mk [(5, 0x42)] []))
      (fun t => decide (t.reg 16 = 0x42 ∧ t.pc = 2)) = true := by decide

/-- R224, its example. -/
theorem test_stX :
    gives (exec (.stX 1) (mk [(1, 0xA1), (26, 0x05)] []))
      (fun t => decide (t.reg 5 = 0xA1)) = true := by decide

/-- R225, its example. -/
theorem test_stXInc :
    gives (exec (.stXInc 1) (mk [(1, 0xA2), (27, 0x02), (26, 0xFF)] []))
      (fun t => decide (t.byteAt 0x02FF = 0xA2 ∧ t.ptr .x = 0x0300)) = true := by decide

/-- R226, its example. -/
theorem test_stXDec :
    gives (exec (.stXDec 1) (mk [(1, 0xA3), (27, 0x03)] []))
      (fun t => decide (t.byteAt 0x02FF = 0xA3 ∧ t.ptr .x = 0x02FF)) = true := by decide

/-- R227, its example. -/
theorem test_stYInc :
    gives (exec (.stYInc 1) (mk [(1, 0xA4), (29, 0x04)] []))
      (fun t => decide (t.byteAt 0x0400 = 0xA4 ∧ t.ptr .y = 0x0401)) = true := by decide

/-- R228, its example. -/
theorem test_stYDec :
    gives (exec (.stYDec 1) (mk [(1, 0xA5), (29, 0x04)] []))
      (fun t => decide (t.byteAt 0x03FF = 0xA5 ∧ t.ptr .y = 0x03FF)) = true := by decide

/-- R229, its example. -/
theorem test_stdY :
    gives (exec (.stdY 2 1) (mk [(1, 0xA6), (29, 0x04)] []))
      (fun t => decide (t.byteAt 0x0402 = 0xA6)) = true := by decide

/-- R230, its example. -/
theorem test_stZInc :
    gives (exec (.stZInc 1) (mk [(1, 0xA7), (31, 0x05)] []))
      (fun t => decide (t.byteAt 0x0500 = 0xA7 ∧ t.ptr .z = 0x0501)) = true := by decide

/-- R231, its example. -/
theorem test_stZDec :
    gives (exec (.stZDec 1) (mk [(1, 0xA8), (31, 0x05)] []))
      (fun t => decide (t.byteAt 0x04FF = 0xA8 ∧ t.ptr .z = 0x04FF)) = true := by decide

/-- R232, its example. -/
theorem test_stdZ :
    gives (exec (.stdZ 63 1) (mk [(1, 0xA9), (31, 0x05)] []))
      (fun t => decide (t.byteAt 0x053F = 0xA9)) = true := by decide

/-- R233, its example. -/
theorem test_lpm :
    gives (exec (.lpm) (atPc 1 [0xABCD] (mk [(30, 0x03)] [])))
      (fun t => decide (t.reg 0 = 0xAB ∧ t.cycles = 3)) = true := by decide

/-- R234, its example. -/
theorem test_lpmZ :
    gives (exec (.lpmZ 5) (atPc 2 [0x1234] (mk [(30, 0x04)] [])))
      (fun t => decide (t.reg 5 = 0x34)) = true := by decide

/-- R235, its example. -/
theorem test_lpmZInc :
    gives (exec (.lpmZInc 5) (atPc 2 [0x1234] (mk [(30, 0x05)] [])))
      (fun t => decide (t.reg 5 = 0x12 ∧ t.ptr .z = 0x0006)) = true := by decide

/-- R236, its example. -/
theorem test_in :
    gives (exec (.ioIn 16 0x3F) (withSreg 0xA1 (mk [] [])))
      (fun t => decide (t.reg 16 = 0xA1)) = true := by decide

/-- R237, its example. -/
theorem test_out :
    gives (exec (.ioOut 0x3D 16) (mk [(16, 0x34)] []))
      (fun t => decide (t.sp = 0x0A34)) = true := by decide

/-- R260, its example. -/
theorem test_nop :
    gives (exec (.nop) (mk [] []))
      (fun t => decide (t.pc = 1 ∧ t.cycles = 1 ∧ t.data = [])) = true := by decide

/-- R261, its example. -/
theorem test_sleep :
    gives (exec (.sleep) (atPc 0x0040 [] (mk [] [(0x53, 0x01)])))
      (fun t => decide (t.sleeping = true ∧ t.pc = 0x0041)) = true := by decide

/-- R261, its example. -/
theorem test_sleep_mode :
    refusesWith (exec .sleep (mk [] [(0x53, 0x05)])) .sleepModeNotIdle = true := by decide

/-- R262, its example. -/
theorem test_wdr :
    gives (exec (.wdr) (mk [] []))
      (fun t => decide (t.pc = 1 ∧ t.cycles = 1 ∧ t.data = [])) = true := by decide

/-- R263, its example. -/
theorem test_break :
    gives (exec (.brk) (mk [] []))
      (fun t => decide (t.pc = 1 ∧ t.cycles = 1 ∧ t.data = [])) = true := by decide

/-- R238, its example. -/
theorem test_overlap :
    refusesWith (exec (.ldXInc 26) (mk [] [])) .pointerOverlap = true := by decide

/-- 60_exceptions.md R316: at select 3, from 250, 384 cycles overflow once. -/
theorem test_timer0_example :
    (match catchUp0 384 (mk [] [(0x45, 3), (0x46, 250)]) with
      | .ok t => decide (t.byteAt 0x46 = 0 ∧ t.byteAt 0x35 = 1 ∧ t.last.t0 = 384)
      | .error _ => false) = true := by decide

/-- 60_exceptions.md R316: 383 cycles do not. -/
theorem test_timer0_one_less :
    (match catchUp0 383 (mk [] [(0x45, 3), (0x46, 250)]) with
      | .ok t => decide (t.byteAt 0x46 = 255 ∧ t.byteAt 0x35 = 0)
      | .error _ => false) = true := by decide

/-- 60_exceptions.md R288: a pending overflow is dispatched at the end of the SEI that enables interrupts. -/
theorem test_step_sei :
    gives (step (atPc 0x0010 [0x9478] (mk [] [(0x35, 0x01), (0x6E, 0x01)])))
      (fun t => decide (t.pc = 0x002E ∧ t.flags.i = false ∧ t.byteAt 0x35 = 0 ∧ t.byteAt 0x0AFF = 0x11
        ∧ t.insideInterrupt = true ∧ t.cycles = 1)) = true := by decide

/-- 60_exceptions.md R272: the word and its address. -/
theorem test_step_unhandled :
    faultsWith (step (atPc 0x0010 [0x0001] (mk [] []))) (.unhandledOpcode 0x0001 0x0010) = true := by decide

/-- 70_reset_and_hazards.md R361: an overridden count of `CYC` is the one charged, of its case alone. -/
theorem test_cyc_override :
    (let s := { mk [] [] with params := { resetParams with cycOverrides := [(.mul, 4)] } }
     gives (exec (.mul 16 17) s) (fun t => decide (t.cycles = 4)) && gives (exec (.muls 16 17) s) (fun t => decide (t.cycles = 2)))
      = true := by decide

/-- 70_reset_and_hazards.md R347: no step after an early return; without one at least the budget, here 4 of 3. -/
theorem test_execute :
    (let s := atPc 0 [0x0000, 0x0000, 0xCFFF] (mk [] [])
     gives (execute ⟨true, false⟩ (fun n _ => decide (n = 2)) 3 s) (fun t => decide (t.cycles = 1 ∧ t.pc = 1))
       && gives (execute ⟨true, false⟩ (fun _ _ => false) 3 s) (fun t => decide (t.cycles = 4 ∧ t.pc = 2))) = true := by decide

/-- 60_exceptions.md R305: the callbacks of a step of RCALL +1, in order: breakpoint check, sample, call-stack push. -/
theorem test_callbacks :
    (let s := { atPc 0 [0xD001] (mk [] []) with params := { resetParams with debugHooks := true, analyticsHooks := true } }
     gives (step s) (fun t => decide (t.hostLog = [.callStackPush, .sample 77 0, .breakpointCheck]))) = true := by decide

/-- The first instruction after reset, placed by `withFetchWord`. -/
theorem test_step_first :
    gives (step (State.reset.withFetchWord 16 0xE005)) (fun t => decide (t.reg 16 = 5 ∧ t.pc = 1)) = true := by decide

/-! ## Witnesses: for every obligation with hypotheses, a state and operands that meet them together, clause by clause -/

/-- What `gives` says. -/
theorem next_of_gives {o : Host.Outcome State Fault Refusal} {p : State → Bool} (h : gives o p = true) :
    ∃ t, o = .next t ∧ p t = true := by
  cases o with
  | next t => exact ⟨t, rfl, h⟩
  | fault f => exact absurd h (by simp [gives])
  | refused r => exact absurd h (by simp [gives])

/-- A part of a step answers with a result that satisfies `p`. -/
def okWith {α : Type} (r : Res α) (p : α → Bool) : Bool :=
  match r with
  | .ok a => p a
  | .error _ => false

/-- What `okWith` says. -/
theorem ok_of_okWith {α : Type} {r : Res α} {p : α → Bool} (h : okWith r p = true) : ∃ a, r = .ok a ∧ p a = true := by
  cases r with
  | ok a => exact ⟨a, rfl, h⟩
  | error e => exact absurd h (by simp [okWith])

/-- SP set. -/
def withSp (v : Word) (s : State) : State := { s with sp := v }

/-- Asleep, with a program. -/
def dozing (s : State) : State := { atPc 0 [0x0000] s with sleeping := true }

/-- An interrupt of vector 41 and one of vector 23 pending, I set. -/
def interrupted (s : State) : State := withSreg 0x80 { s with pending := 1#43 <<< 41 ||| 1#43 <<< 23 }

theorem witness_DecodeOfEncode : (Instr.call 0x3FFFFF).wellFormed = true ∧ (Instr.muls 31 16).wellFormed = true
    ∧ (Instr.sbiw 30 63).wellFormed = true ∧ (Instr.stdZ 63 31).wellFormed = true := by decide

theorem witness_EncodeOfDecode : decodeWords 0x95FF 0xFFFF = some (.call 0x3FFFFF)
    ∧ decodeWords 0xFFF7 0 = some (.sbrs 31 7) := by decide

theorem witness_TableRowsAreDisjoint : opcodeTable.length = 85 ∧ opcodeTable.any (fun row => row.hits 0x0F01) = true := by
  decide

theorem witness_UnhandledWords : (decodeWords 0x00FF 0 = none ∧ reservedWord 0x00FF = true)
    ∧ (decodeWords 0xFFFF 0 = none ∧ reservedWord 0xFFFF = true)
    ∧ (decodeWords 0x0100 0 ≠ none ∧ reservedWord 0x0100 = false)
    ∧ (decodeWords 0x9409 0 ≠ none ∧ reservedWord 0x9409 = false) := by decide

/-- One word at the last flash address, and two words at the last place they fit. -/
theorem witness_StepRunsDecodedInstruction :
    (∃ s : State, s.hasProgram = true ∧ s.sleeping = false ∧ s.pc.toNat < 16384
      ∧ decode [s.flashAt (2 * s.pc.toNat), s.flashAt (2 * s.pc.toNat + 1), s.flashAt (2 * s.pc.toNat + 2),
        s.flashAt (2 * s.pc.toNat + 3)] = .ok (.add 16 17, [0, 0]) ∧ (([0, 0] : List Byte) = [] → s.pc.toNat + 1 < 16384))
    ∧ ∃ s : State, s.hasProgram = true ∧ s.sleeping = false ∧ s.pc.toNat < 16384
      ∧ decode [s.flashAt (2 * s.pc.toNat), s.flashAt (2 * s.pc.toNat + 1), s.flashAt (2 * s.pc.toNat + 2),
        s.flashAt (2 * s.pc.toNat + 3)] = .ok (.sts 0x0200 5, []) ∧ (([] : List Byte) = [] → s.pc.toNat + 1 < 16384) :=
  ⟨⟨atPc 0x3FFF [0x0F01] (mk [] []), rfl, rfl, by decide, rfl, by decide⟩,
   ⟨atPc 0x3FFE [0x9250, 0x0200] (mk [] []), rfl, rfl, by decide, rfl, by decide⟩⟩

/-- Asleep with interrupts disabled, and enabled with nothing pending, it stays asleep; with a timer0 overflow it wakes, inside
a handler too. -/
theorem witness_SleepingStep :
    (∃ t, step (dozing (mk [] [])) = .next t ∧ (decide (t.sleeping = true)) = true)
    ∧ (∃ t, step (dozing (withSreg 0x80 (mk [] []))) = .next t ∧ (decide (t.sleeping = true)) = true)
    ∧ ∃ t, step { dozing (withSreg 0x80 (mk [] [(0x35, 0x01), (0x6E, 0x01)])) with insideInterrupt := true } = .next t
      ∧ (decide (t.sleeping = false)) = true :=
  ⟨next_of_gives (by decide), next_of_gives (by decide), next_of_gives (by decide)⟩

theorem witness_FetchStops :
    (mk [] []).hasProgram = false
    ∧ ((atPc 0x4000 [] (mk [] [])).hasProgram = true ∧ 16384 ≤ (atPc 0x4000 [] (mk [] [])).pc.toNat)
    ∧ (∃ w, (atPc 0x0000 [0x0001] (mk [] [])).flashWord 0 = .ok w ∧ reservedWord w = true)
    ∧ ∃ w, (atPc 0x3FFF [0x940C] (mk [] [])).flashWord 16383 = .ok w ∧ is2Word w = true :=
  ⟨rfl, by decide, ⟨0x0001, rfl, by decide⟩, ⟨0x940C, rfl, by decide⟩⟩

theorem witness_ModelResetChoices : (32767 : Nat) < 32768
    ∧ (loadProgram [0x01, 0x0F] State.reset).flashAt 1 = 0x0F
    ∧ (loadProgram [0x01, 0x0F] State.reset).flashAt 32767 = 0 := by decide

/-- Registers and memories other than the model's own choices. -/
theorem witness_ResetLeaves : ∃ t, t = hostReset (Vector.replicate 32 0xAA) [(0x20, 1), (0x100, 0x55)] [(1023, 7)]
      (atPc 0x10 [0x0F01] (mk [(3, 9)] [(0x46, 5)])) ∧ t.reg 31 = 0xAA ∧ t.byteAt 0x100 = 0x55 ∧ t.byteAt 0x20 = 0
      ∧ t.eeprom.read 1023 = 7 :=
  ⟨_, rfl, by decide⟩

/-- The reset state with a program takes a step, and so does an awake one with data and a running timer. -/
theorem witness_InvKeptByStep :
    (atPc 0 [0x0F01] (mk [] [])).inv = true
    ∧ (atPc 0x3FFF [0x930F] (mk [(16, 0x5A)] [(0x45, 1), (0x46, 255), (0x0200, 7)])).inv = true
    ∧ (∃ t, step (atPc 0 [0x0F01] (mk [] [])) = .next t ∧ t.inv = true)
    ∧ ∃ t, step (atPc 0x3FFF [0x930F] (mk [(16, 0x5A)] [(0x45, 1), (0x46, 255), (0x0200, 7)])) = .next t ∧ t.inv = true :=
  ⟨by decide, by decide, next_of_gives (by decide), next_of_gives (by decide)⟩

theorem witness_FlashNeverChanges : ∃ t, step (atPc 0 [0x0F01] (mk [] [])) = .next t ∧ (decide (t.pc = 1)) = true :=
  next_of_gives (by decide)

/-- The longest and the shortest instruction, a step, a run and an early return, and counts overridden at both ends. -/
theorem witness_CyclesAdvance :
    (mk [] []).cycOk = true
    ∧ ({ mk [] [] with params := { resetParams with cycOverrides := [(.add, 5), (.ret, 1)] } } : State).cycOk = true
    ∧ (∃ t, exec (.call 0) (mk [] []) = .next t ∧ (decide (t.cycles = 5)) = true)
    ∧ (∃ t, exec .nop (mk [] []) = .next t ∧ (decide (t.cycles = 1)) = true)
    ∧ (∃ t, step (atPc 0x3FFF [0x0F01] (mk [] [])) = .next t ∧ (decide (t.cycles = 1)) = true)
    ∧ (∃ t, execute ⟨false, false⟩ (fun _ _ => true) 1 (atPc 0 [0xCFFF] (mk [] [])) = .next t ∧ (decide (t.cycles = 2)) = true)
    ∧ ∃ t, execute ⟨true, false⟩ (fun _ _ => true) 1 (atPc 0 [0xCFFF] (mk [] [])) = .next t ∧ (decide (t.cycles = 0)) = true :=
  ⟨by decide, by decide, next_of_gives (by decide), next_of_gives (by decide), next_of_gives (by decide),
    next_of_gives (by decide), next_of_gives (by decide)⟩

/-- A store that reaches no hook, and stores to EECR, SPDR, a port and SPL, each with a next state. -/
theorem witness_SystemFrame :
    (∃ t, exec (.sts 0x0AFF 16) (mk [(16, 0x5A)] []) = .next t
      ∧ (decide (storeTarget (mk [(16, 0x5A)] []) (.sts 0x0AFF 16) = some 0x0AFF)) = true)
    ∧ (∃ t, exec (.sts 0x3F 16) (mk [(16, 0x04)] []) = .next t ∧ (decide (t.last.eewe = 0)) = true)
    ∧ (∃ t, exec (.sts 0x4E 16) (mk [(16, 0x04)] []) = .next t ∧ (decide (t.byteAt 0x4E = 0)) = true)
    ∧ (∃ t, exec (.sbi 0x05 7) (mk [] []) = .next t ∧ (decide (t.hostLog = [.pinChange .b 0 0x80])) = true)
    ∧ ∃ t, exec (.sts 0x5D 16) { mk [] [] with params := { resetParams with debugHooks := true } } = .next t
      ∧ (decide (t.hostLog = [.stackPointerWrite])) = true :=
  ⟨next_of_gives (by decide), next_of_gives (by decide), next_of_gives (by decide), next_of_gives (by decide), next_of_gives (by decide)⟩

/-- An instruction with flags of its own, and a store to SREG. -/
theorem witness_FlagFrame :
    (∃ t, exec (.bst 31 7) (mk [(31, 0x80)] []) = .next t ∧ (decide (t.flags.toByte = 0x40)) = true)
    ∧ ∃ t, exec (.sts 0x5F 16) (mk [(16, 0xFF)] []) = .next t ∧ (decide (t.flags.toByte = 0xFF)) = true :=
  ⟨next_of_gives (by decide), next_of_gives (by decide)⟩

/-- A load with update, a store into a register as a data address, and a store to SPL. -/
theorem witness_RegisterFrame :
    (∃ t, exec (.ldXInc 0) (mk [(26, 0xFF), (27, 0x0A)] []) = .next t ∧ (decide (t.reg 27 = 0x0B)) = true)
    ∧ (∃ t, exec (.sts 0x001F 16) (mk [(16, 0xFF)] []) = .next t ∧ (decide (t.reg 31 = 0xFF)) = true)
    ∧ ∃ t, exec (.sts 0x005D 16) (mk [(16, 0x80)] []) = .next t ∧ (decide (t.sp = 0x0A80)) = true :=
  ⟨next_of_gives (by decide), next_of_gives (by decide), next_of_gives (by decide)⟩

/-- A form that stores nothing, one that stores, one that pushes, one that touches a timer byte. -/
theorem witness_MemoryFrame :
    (∃ t, exec (.cp 0 1) (mk [] []) = .next t ∧ (decide (bytesTouched (.cp 0 1) (mk [] []) = [])) = true)
    ∧ (∃ t, exec (.sts 0x0AFF 16) (mk [(16, 1)] []) = .next t ∧ (decide (t.byteAt 0x0AFF = 1)) = true)
    ∧ (∃ t, exec (.call 3) (mk [] []) = .next t ∧ (decide (t.byteAt 0x0AFF = 2)) = true)
    ∧ ∃ t, exec (.ioIn 5 0x26) (mk [] []) = .next t
      ∧ (decide (bytesTouched (.ioIn 5 0x26) (mk [] []) = [0x46, 0x35])) = true :=
  ⟨next_of_gives (by decide), next_of_gives (by decide), next_of_gives (by decide), next_of_gives (by decide)⟩

/-- Registers for the chain of R147. -/
theorem witness_CarryChains : (0 : Reg) ≠ 31 ∧ (0 : Reg) ≠ 1 ∧ (30 : Reg) ≠ 31 := by decide

theorem witness_Jumps : (0x0FFFF : BitVec 22).toNat < 65536 ∧ 65536 ≤ (0x10000 : BitVec 22).toNat
    ∧ 65536 ≤ (0x3FFFFF : BitVec 22).toNat := by decide

/-- Taken at the last place where it is answered, taken where the look leaves flash, and not taken. -/
theorem witness_RegisterSkips :
    (true = decide ((atPc 0x3FFE [] (mk [] [])).reg 0 = (atPc 0x3FFE [] (mk [] [])).reg 31)
      ∧ (true = true → (atPc 0x3FFE [] (mk [] [])).pc.toNat + 1 < 16384))
    ∧ (true = decide ((atPc 0x3FFF [] (mk [] [])).reg 0 = (atPc 0x3FFF [] (mk [] [])).reg 31)
      ∧ 16384 ≤ (atPc 0x3FFF [] (mk [] [])).pc.toNat + 1)
    ∧ (false = decide ((atPc 0x3FFF [] (mk [(0, 1)] [])).reg 0 = (atPc 0x3FFF [] (mk [(0, 1)] [])).reg 31)
      ∧ (false = true → (atPc 0x3FFF [] (mk [(0, 1)] [])).pc.toNat + 1 < 16384))
    ∧ (true = !((atPc 0x3FFE [] (mk [] [])).reg 31).getLsbD 7
      ∧ true = !((atPc 0x3FFF [] (mk [] [])).reg 31).getLsbD 7
      ∧ false = !((mk [(31, 0x80)] []).reg 31).getLsbD 7)
    ∧ (true = ((atPc 0x3FFE [] (mk [(31, 0x80)] [])).reg 31).getLsbD 7
      ∧ true = ((atPc 0x3FFF [] (mk [(31, 0x80)] [])).reg 31).getLsbD 7
      ∧ false = ((mk [] []).reg 31).getLsbD 7) := by decide

theorem witness_IoSkips :
    (∃ vm, memRead (ioAddress5 0x1F) (atPc 0x3FFE [] (mk [] [])) = .ok vm
      ∧ (decide (vm.1.getLsbD 2 = false ∧ (atPc 0x3FFE [] (mk [] [])).pc.toNat + 1 < 16384)) = true)
    ∧ (∃ vm, memRead (ioAddress5 0x15) (atPc 0x3FFE [] (mk [] [(0x35, 1)])) = .ok vm
      ∧ (decide (vm.1.getLsbD 0 = true ∧ (atPc 0x3FFE [] (mk [] [])).pc.toNat + 1 < 16384)) = true)
    ∧ ∃ vm, memRead (ioAddress5 0x15) (atPc 0x3FFF [] (mk [] [(0x35, 1)])) = .ok vm
      ∧ (decide (vm.1.getLsbD 0 = true ∧ vm.1.getLsbD 1 = false
        ∧ 16384 ≤ (atPc 0x3FFF [] (mk [] [])).pc.toNat + 1)) = true :=
  ⟨ok_of_okWith (by decide), ok_of_okWith (by decide), ok_of_okWith (by decide)⟩

theorem witness_Calls : (0x101 ≤ (withSp 0x0101 (mk [] [])).sp.toNat ∧ (withSp 0x0101 (mk [] [])).sp.toNat < 0xB00)
    ∧ (0x101 ≤ (withSp 0x0AFF (mk [] [])).sp.toNat ∧ (withSp 0x0AFF (mk [] [])).sp.toNat < 0xB00)
    ∧ (0x00FFFF : BitVec 22).toNat < 65536 := by decide

theorem witness_Returns : (0xFF ≤ (withSp 0x00FF (mk [] [])).sp.toNat ∧ (withSp 0x00FF (mk [] [])).sp.toNat ≤ 0xAFD)
    ∧ (0xFF ≤ (withSp 0x0AFD (mk [] [])).sp.toNat ∧ (withSp 0x0AFD (mk [] [])).sp.toNat ≤ 0xAFD) := by decide

theorem witness_PushAndPop :
    (0x100 ≤ (withSp 0x0100 (mk [] [])).sp.toNat ∧ (withSp 0x0100 (mk [] [])).sp.toNat < 0xB00)
    ∧ (0x100 ≤ (withSp 0x0AFF (mk [] [])).sp.toNat ∧ (withSp 0x0AFF (mk [] [])).sp.toNat < 0xB00)
    ∧ (0xFF ≤ (withSp 0x00FF (mk [] [])).sp.toNat ∧ (withSp 0x00FF (mk [] [])).sp.toNat < 0xAFF)
    ∧ (0xFF ≤ (withSp 0x0AFE (mk [] [])).sp.toNat ∧ (withSp 0x0AFE (mk [] [])).sp.toNat < 0xAFF) := by decide

theorem witness_StackFaults :
    ((withSp 0x00FF (mk [] [])).sp.toNat < 0x100 ∧ 0xB00 ≤ (withSp 0x0B00 (mk [] [])).sp.toNat)
    ∧ (withSp 0x0100 (mk [] [])).sp.toNat = 0x100 ∧ 65536 ≤ (0x10000 : BitVec 22).toNat
    ∧ ((withSp 0x00FE (mk [] [])).sp.toNat < 0xFF ∧ 0xAFF ≤ (withSp 0x0AFF (mk [] [])).sp.toNat
      ∧ 0xAFF ≤ (withSp 0xFFFF (mk [] [])).sp.toNat)
    ∧ (withSp 0x0AFE (mk [] [])).sp.toNat = 0xAFE := by decide

theorem witness_StackRoundTrips :
    (0x100 ≤ (withSp 0x0100 (mk [] [])).sp.toNat ∧ (withSp 0x0100 (mk [] [])).sp.toNat < 0xB00)
    ∧ ((0x00FFFF : BitVec 22).toNat < 65536 ∧ 0x101 ≤ (withSp 0x0101 (mk [] [])).sp.toNat)
    ∧ (interrupted (mk [] [])).flags.i = true ∧ (interrupted (mk [] [])).pending ≠ 0
    ∧ ∃ t, dispatch (interrupted (mk [] [])) = .ok t ∧ (decide (t.pc = 0x2E)) = true :=
  ⟨by decide, by decide, by decide, by decide, ok_of_okWith (by decide)⟩

/-- The last data address, and the counter of timer0 with the last defined clock select. -/
theorem witness_LoadsWithoutUpdate :
    readOk (0x0AFF : Word).toNat (mk [] []) ∧ readOk ((mk [(26, 0xFF), (27, 0x0A)] []).ptr .x).toNat (mk [] [])
    ∧ readOk (((mk [(28, 0xC0), (29, 0x0A)] []).ptr .y).toNat + (63 : BitVec 6).toNat) (mk [] [])
    ∧ readOk ((((mk [(30, 0xFF), (31, 0xFF)] []).ptr .z).toNat + (63 : BitVec 6).toNat) % 65536)
      (mk [(30, 0xFF), (31, 0xFF)] [])
    ∧ readOk 0x46 (mk [] [(0x45, 5)]) := by unfold readOk; decide

theorem witness_LoadsWithUpdate :
    (0 : Reg) ∉ Ptr.regs .x ∧ readOk ((mk [(26, 0xFF), (27, 0x0A)] []).ptr .x).toNat (mk [(26, 0xFF), (27, 0x0A)] [])
    ∧ (31 : Reg) ∉ Ptr.regs .y ∧ readOk ((mk [] []).ptr .y).toNat (mk [] [])
    ∧ (29 : Reg) ∉ Ptr.regs .z ∧ readOk ((mk [(31, 0x0B)] []).ptr .z - 1).toNat (mk [(31, 0x0B)] []) := by
  unfold readOk; decide

/-- The last data address; a write of TCNT0; a triggered EEPROM write at the last address in the last defined mode; a
write of EECR that triggers nothing, with the EEPROM address outside. -/
theorem witness_StoresWithoutUpdate :
    writeOk (0x0AFF : Word).toNat 0xFF (mk [] []) ∧ writeOk 0x46 1 (mk [] [(0x45, 5)])
    ∧ (eepromWriteGo 0x22 (mk [] [(0x3F, 4), (0x41, 0xFF), (0x42, 0x03)]) = true
      ∧ writeOk 0x3F 0x22 (mk [] [(0x3F, 4), (0x41, 0xFF), (0x42, 0x03)]))
    ∧ writeOk 0x3F 0x32 (mk [] [(0x42, 0x04)])
    ∧ writeOk ((mk [(28, 0xC0), (29, 0x0A)] []).ptr .y + 63#16).toNat 0xFF (mk [(28, 0xC0), (29, 0x0A)] [])
    ∧ writeOk ((mk [(30, 0xC1), (31, 0xFF)] []).ptr .z + 63#16).toNat 0xFF (mk [(30, 0xC1), (31, 0xFF)] []) := by
  and_intros <;> decide

theorem witness_StoresWithUpdate :
    (0 : Reg) ∉ Ptr.regs .x ∧ writeOk ((mk [(26, 0xFF), (27, 0x0A)] []).ptr .x).toNat 7 (mk [(26, 0xFF), (27, 0x0A)] [])
    ∧ (31 : Reg) ∉ Ptr.regs .y ∧ writeOk ((mk [(28, 28)] []).ptr .y).toNat 7 (mk [(28, 28)] [])
    ∧ (29 : Reg) ∉ Ptr.regs .z ∧ writeOk ((mk [(31, 0x0B)] []).ptr .z - 1).toNat 7 (mk [(31, 0x0B)] []) := by
  and_intros <;> decide

theorem witness_DataFaults :
    (loadTarget (mk [] []) (.lds 0 0x0B00) = some 2816 ∧ overlapRefused (.lds 0 0x0B00) = false)
    ∧ (storeTarget (mk [] []) (.stXDec 0) = some 65535 ∧ overlapRefused (.stXDec 0) = false) := by decide

theorem witness_OverlapsRefused : overlapRefused (.ldXInc 26) = true ∧ overlapRefused (.stYDec 29) = true
    ∧ overlapRefused (.lpmZInc 31) = true := by decide

theorem witness_LoadsFromFlash : ((mk [(30, 0xFF), (31, 0x7F)] []).ptr .z).toNat < 32768
    ∧ 32768 ≤ ((mk [(31, 0x80)] []).ptr .z).toNat ∧ (29 : Reg) ≠ 30 ∧ (29 : Reg) ≠ 31 := by decide

theorem witness_InAndOut : readOk ((63 : BitVec 6).toNat + 0x20) (mk [] [])
    ∧ readOk ((0x26 : BitVec 6).toNat + 0x20) (mk [] [(0x45, 5)])
    ∧ writeOk ((0 : BitVec 6).toNat + 0x20) 0xFF (mk [] [])
    ∧ writeOk ((0x25 : BitVec 6).toNat + 0x20) 0xFF (mk [] [(0x45, 5)]) := by
  unfold readOk writeOk; decide

/-- A read and a write back of a port, of EECR inside its window, and any address but EECR. -/
theorem witness_IoBitWrites :
    (∃ vm, memRead ((0x05 : BitVec 5).toNat + 0x20) (mk [] [(0x25, 0x01)]) = .ok vm
      ∧ okWith (memWrite ((0x05 : BitVec 5).toNat + 0x20) (vm.1 ||| 1#8 <<< 7) vm.2) (fun w => decide (w.byteAt 0x25 = 0x81))
        = true)
    ∧ (∃ vm, memRead ((0x1F : BitVec 5).toNat + 0x20) (mk [] [(0x3F, 0x0C)]) = .ok vm
      ∧ okWith (memWrite ((0x1F : BitVec 5).toNat + 0x20) (vm.1 &&& ~~~(1#8 <<< 3)) vm.2) (fun w => decide (w.byteAt 0x3F = 4))
        = true)
    ∧ ((0x00 : BitVec 5) ≠ 0x1F ∧ (0x1E : BitVec 5) ≠ 0x1F) :=
  ⟨ok_of_okWith (by decide), ok_of_okWith (by decide), by decide⟩

/-- SE clear in another mode, SE set in idle mode, SE set in another mode. -/
theorem witness_SystemInstructions : ((mk [] [(0x53, 0x0E)]).byteAt 0x53).getLsbD 0 = false
    ∧ ((mk [] [(0x53, 0xF1)]).byteAt 0x53).toNat % 16 = 1
    ∧ (((mk [] [(0x53, 0x03)]).byteAt 0x53).getLsbD 0 = true ∧ ((mk [] [(0x53, 0x03)]).byteAt 0x53).toNat % 16 ≠ 1) := by
  decide

theorem witness_PlainBytes : plainByte 0x20 = true ∧ plainByte 0x0AFF = true ∧ plainByte 0xFF = true
    ∧ plainByte 0x35 = true ∧ plainByte 0x5F = false := by decide

/-- A write that is answered with its EEPROM write triggered at the last address; the address outside, by EERE and by EEPE;
mode 3. -/
theorem witness_EepromControl :
    (writeOk 0x3F 0x02 (mk [] [(0x3F, 4), (0x41, 0xFF), (0x42, 0x03)])
      ∧ eepromWriteGo 0x02 (mk [] [(0x3F, 4), (0x41, 0xFF), (0x42, 0x03)]) = true)
    ∧ (((0x01 : Byte).getLsbD 0 = true ∧ 1024 ≤ (mk [] [(0x42, 0x04)]).eear)
      ∧ eepromWriteGo 0x02 (mk [] [(0x3F, 4), (0x42, 0x04)]) = true ∧ 1024 ≤ (mk [] [(0x3F, 4), (0x42, 0x04)]).eear)
    ∧ (eepromWriteGo 0x32 (mk [] [(0x3F, 4), (0x41, 0xFF), (0x42, 0x03)]) = true
      ∧ (mk [] [(0x3F, 4), (0x41, 0xFF), (0x42, 0x03)]).eear < 1024 ∧ (0x32 : Byte).toNat / 16 % 4 = 3) := by
  and_intros <;> decide

theorem witness_PllAndAdc :
    (∃ vm, memRead 0x49 (mk [] [(0x49, 0x03)]) = .ok vm ∧ (decide (vm.1 = 0x03)) = true)
    ∧ ∃ vm, memRead 0x7A { mk [] [(0x7A, 0x40)] with params := { resetParams with adcConvCycles := 9 } } = .ok vm
      ∧ (decide (vm.1 = 0x40)) = true :=
  ⟨ok_of_okWith (by decide), ok_of_okWith (by decide)⟩

theorem witness_SpiAndPorts : (mk [] []).params.spiAttached = false
    ∧ ({ mk [] [] with params := { resetParams with spiAttached := true } } : State).params.spiAttached = true
    ∧ portAt 0x25 = some .b ∧ portAt 0x31 = some .f := by decide

theorem witness_ReadsAreIdempotent :
    (∃ vt, memRead 0x46 { mk [] [(0x45, 1), (0x46, 255)] with cycles := 3 } = .ok vt
      ∧ (decide (vt.1 = 2 ∧ vt.2.byteAt 0x35 = 1)) = true)
    ∧ ∃ t, fullResync { mk [] [(0x45, 1), (0x46, 255)] with
        cycles := 3
        params := { resetParams with adcConvCycles := 9, pllLockCycles := 2 } } = .ok t
      ∧ (decide (t.byteAt 0x46 = 2)) = true :=
  ⟨ok_of_okWith (by decide), ok_of_okWith (by decide)⟩

/-- The last defined clock select and the first undefined one; a stopped timer; a catch-up that a write follows. -/
theorem witness_Timer0 :
    (prescale (((mk [] [(0x45, 5)]).byteAt 0x45).toNat % 8) = some 1024
      ∧ prescale (((mk [] []).byteAt 0x45).toNat % 8) = some 0)
    ∧ (6 ≤ ((mk [] [(0x45, 6)]).byteAt 0x45).toNat % 8 ∧ 6 ≤ ((mk [] [(0x45, 7)]).byteAt 0x45).toNat % 8)
    ∧ ∃ m, catchUp0 3 { mk [] [(0x45, 1), (0x46, 255)] with cycles := 3 } = .ok m
      ∧ (decide (m.byteAt 0x46 = 2)) = true :=
  ⟨by decide, by decide, ok_of_okWith (by decide)⟩

/-- Timer3 at the last defined select and stopped, in each waveform mode and with each undefined select; timer4 stopped, and at
the last select with the largest top; its parameters as at reset. -/
theorem witness_Timers3And4 : (((mk [] [(0x91, 5)]).byteAt 0x90).toNat % 4 = 0
      ∧ ((mk [] [(0x91, 5)]).byteAt 0x91).toNat / 8 % 4 = 0 ∧ prescale (((mk [] [(0x91, 5)]).byteAt 0x91).toNat % 8) = some 1024)
    ∧ (((mk [] []).byteAt 0x91).toNat / 8 % 4 = 0 ∧ prescale (((mk [] []).byteAt 0x91).toNat % 8) = some 0)
    ∧ (((mk [] [(0x90, 1)]).byteAt 0x90).toNat % 4 ≠ 0 ∧ ((mk [] [(0x91, 8)]).byteAt 0x91).toNat / 8 % 4 ≠ 0
      ∧ 6 ≤ ((mk [] [(0x91, 6)]).byteAt 0x91).toNat % 8 ∧ 6 ≤ ((mk [] [(0x91, 7)]).byteAt 0x91).toNat % 8)
    ∧ ((mk [] []).params.t4Div = resetParams.t4Div ∧ (mk [] []).params.t4Compare = resetParams.t4Compare
      ∧ (mk [] []).params.t4Toggle = resetParams.t4Toggle)
    ∧ divisor4 (mk [] []) = 0
    ∧ (divisor4 (mk [] [(0xC1, 15)]) ≠ 0 ∧ (mk [] [(0xC1, 15)]).params.t4Top + 1 ≤ 1024) := by decide

/-- The parameters give another function of the state than the suggestions (00_scope.md R8): a compare target for one I/O image,
a toggle mask for one pair. -/
theorem test_timer4_parameters :
    (let s := mk [] [(0xCF, 9), (0x27, 0xC0)]
     let t := { s with params := { resetParams with t4Compare := .table [(ioImage s, 0x3FF)], t4Toggle := [((0xC0, 0), 0xFF)] } }
     decide (t4Compare t = 0x3FF ∧ t4Toggle t = 0xC0 ∧ t4Compare (t.setByte 0xCF 8) = 8 ∧ t4Toggle s = 0)) = true := by decide

/-- spec/95_test_vectors.md H15. -/
theorem test_timer4_overflow :
    (let t := catchUp4 20 (mk [] [(0xC1, 1), (0xBE, 0xF0), (0xBF, 3), (0xCF, 0x80), (0x27, 0xC0), (0xC0, 0x40)])
     decide (t.byteAt 0x39 = 0x04 ∧ t.tcnt4 = 4 ∧ t.byteAt 0x28 = 0)) = true := by decide

/-- All three timers running, caught up to 40 by way of 7. -/
theorem witness_CatchUpSplits :
    (mk [] [(0x45, 2), (0x91, 1), (0xC1, 3)]).params.t4Top ≤ 1023
    ∧ compareSteady (mk [] [(0x45, 2), (0x91, 1), (0xC1, 3)]).params
    ∧ (∃ u, catchUpAll 40 (mk [] [(0x45, 2), (0x91, 1), (0xC1, 3)]) = .ok u
      ∧ (decide (u.byteAt 0x46 = 5 ∧ u.byteAt 0x94 = 40)) = true)
    ∧ ∃ t, catchUpAll 7 (mk [] [(0x45, 2), (0x91, 1), (0xC1, 3)]) = .ok t
      ∧ okWith (catchUpAll 40 t) (fun v => decide (v.byteAt 0x46 = 5)) = true :=
  ⟨by decide, compareSteady_suggested rfl, ok_of_okWith (by decide), ok_of_okWith (by decide)⟩

/-- Interrupts disabled, nothing pending; the lower of two pending vectors, with SP at both ends; a step whose entry cannot
push its first byte, and one that cannot push its second (spec/95_test_vectors.md Q5). -/
theorem witness_InterruptEntry :
    ((mk [] []).flags.i = false ∧ (withSreg 0x80 (mk [] [])).pending = 0)
    ∧ ((interrupted (withSp 0x0101 (mk [] []))).flags.i = true
      ∧ (interrupted (withSp 0x0101 (mk [] []))).pending.getLsbD 23 = true
      ∧ (∀ m : Fin 43, m < 23 → (interrupted (withSp 0x0101 (mk [] []))).pending.getLsbD m.val = false)
      ∧ 0x101 ≤ (interrupted (withSp 0x0101 (mk [] []))).sp.toNat
      ∧ (interrupted (withSp 0x0AFF (mk [] []))).sp.toNat < 0xB00)
    ∧ (∃ t, stepBody (atPc 0 [0x9478] (withSp 0x00FF (mk [] [(0x35, 1), (0x6E, 1)]))) = .next t
      ∧ okWith (catchUpAll t.cycles t) (fun u => decide (u.flags.i = true ∧ (recognise u).pending ≠ 0
        ∧ u.sp.toNat < 0x100)) = true)
    ∧ ∃ t, stepBody (atPc 0 [0x9478] (withSp 0x0100 (mk [] [(0x35, 1), (0x6E, 1)]))) = .next t
      ∧ okWith (catchUpAll t.cycles t) (fun u => decide (u.flags.i = true ∧ (recognise u).pending ≠ 0
        ∧ u.sp.toNat = 0x100)) = true :=
  ⟨by decide, by decide, next_of_gives (by decide), next_of_gives (by decide)⟩

end Sys2Proof.Tests
end

/-! PROOF. What an access of the data space leaves of registers, SP, flags, EEPROM, timestamps, the free-value counter and the
host's log (spec/20_memory.md R66, R67, R71 to R81). -/

section
namespace Sys2Proof.Machine

/-! ### A hook and the registers, SP and flags -/

/-- A store to EECR changes data and EEPROM bytes and timestamps only (R74). -/
theorem reactEecr_eq {old v : Byte} {s u : State} (h : reactEecr old v s = .ok u) :
    u = { s with data := u.data, eeprom := u.eeprom, last := u.last } := by
  obtain ⟨t, h0, h1⟩ := reactEecr_eq_ok.mp h
  have hst : eecrStamped v s = { s with data := (eecrStamped v s).data, last := (eecrStamped v s).last } := by
    unfold eecrStamped; split <;> rfl
  have ht : t = { s with data := t.data, last := t.last } := by
    split at h0
    · rw [(eepromRead_eq_ok.mp h0).2, hst]; rfl
    · rw [h0]; exact hst
  split at h1
  · obtain ⟨-, x, -, rfl⟩ := eepromProgram_eq_ok.mp h1
    rw [ht]
  · rw [h1, ht]

/-- A store to TCCR0B catches timer0 up: it changes data bytes and timestamps only (60_exceptions.md R314). -/
theorem reactTccr0b_quiet {old v : Byte} {s u : State} (h : reactTccr0b old v s = .ok u) : quiet s u := by
  obtain ⟨t, ht, rfl⟩ := reactTccr0b_eq_ok.mp h
  obtain ⟨d, -, rfl⟩ := catchUp0At_eq_ok.mp ht
  refine quiet_trans (advance0_quiet d s.cycles s) ?_
  split <;> rfl

/-- Registers, flags and SP as they were. -/
abbrev coreKept (s t : State) : Prop := t.gpr = s.gpr ∧ t.flags = s.flags ∧ t.sp = s.sp

theorem quiet_coreKept {s t : State} (h : quiet s t) : coreKept s t := ⟨quiet_gpr h, quiet_flags h, quiet_sp h⟩

/-- A reaction writes no register, no flag and not SP: only the raw write before it does. -/
theorem react_coreKept {a : Nat} {old v : Byte} {s u : State} (h : react a old v s = .ok u) : coreKept s u := by
  rcases react_cases h with ⟨-, h⟩ | ⟨-, rfl⟩ | ⟨-, rfl⟩ | ⟨-, h⟩ | ⟨-, rfl⟩ | ⟨-, rfl⟩ | ⟨-, -, -, -, -, -, rfl⟩
  · rw [reactEecr_eq h]; exact ⟨rfl, rfl, rfl⟩
  · obtain ⟨x, n, -, -, h⟩ := reactPllcsr_cases old v s; rw [h]; exact ⟨rfl, rfl, rfl⟩
  · obtain ⟨x, n, l, h⟩ := reactSpdr_cases v s; rw [h]; exact ⟨rfl, rfl, rfl⟩
  · exact quiet_coreKept (reactTccr0b_quiet h)
  · rcases reactTcnt0_cases old v s with h | h <;> rw [h] <;> exact ⟨rfl, rfl, rfl⟩
  · rcases reactAdcsra_cases old v s with h | h <;> rw [h] <;> exact ⟨rfl, rfl, rfl⟩
  · rw [reactHost_eq]; exact ⟨rfl, rfl, rfl⟩

theorem reg_eq_of_gpr {s t : State} (h : t.gpr = s.gpr) (r : Reg) : t.reg r = s.reg r := by
  rw [State.reg, State.reg, h]

/-- A raw write writes the one register its address reaches (10_state.md R20), the flags at SREG only, SP at its halves
only. -/
theorem State.rawWrite_core (s : State) (a : Nat) (v : Byte) :
    regsKept (regAt a) s (s.rawWrite a v) ∧ (a ≠ aSREG → (s.rawWrite a v).flags = s.flags)
      ∧ (a ≠ aSPL → a ≠ aSPH → (s.rawWrite a v).sp = s.sp) := by
  rcases s.rawWrite_cases a v with ⟨k, h⟩ | ⟨e, h⟩ | ⟨e, h⟩ | ⟨e, h⟩ | ⟨-, h⟩ <;> rw [h]
  · refine ⟨fun r hr => State.reg_setReg_other s v ?_, fun _ => rfl, fun _ _ => rfl⟩
    rintro rfl
    exact hr (by simp [regAt, k])
  · exact ⟨fun r _ => rfl, fun _ => rfl, fun k => absurd e k⟩
  · exact ⟨fun r _ => rfl, fun _ => rfl, fun _ k => absurd e k⟩
  · exact ⟨fun r _ => rfl, fun k => absurd e k, fun _ _ => rfl⟩
  · exact ⟨fun r _ => rfl, fun _ => rfl, fun _ _ => rfl⟩

/-- A store writes the one register its address reaches, the flags at SREG only, SP at its halves only. -/
theorem memWrite_core {a : Nat} {v : Byte} {s u : State} (h : memWrite a v s = .ok u) :
    regsKept (regAt a) s u ∧ (a ≠ aSREG → u.flags = s.flags) ∧ (a ≠ aSPL → a ≠ aSPH → u.sp = s.sp) := by
  obtain ⟨-, t, ht, hu⟩ := memWrite_eq_ok.mp h
  obtain ⟨hg, hf, hsp⟩ := react_coreKept hu
  obtain ⟨wr, wf, wsp⟩ := t.rawWrite_core a v
  have hq := refresh_quiet ht
  refine ⟨fun r hr => ?_, fun k => ?_, fun k0 k1 => ?_⟩
  · rw [reg_eq_of_gpr hg, wr r hr, quiet_reg hq]
  · rw [hf, wf k, quiet_flags hq]
  · rw [hsp, wsp k0 k1, quiet_sp hq]

/-! ### Timestamps (10_state.md R34) -/

/-- How a store to `a` at time `now` moves the timestamps: each is set by the stores of its own register only, to the
present, or for timer0 to no later than it. -/
structure Stamped (a now : Nat) (l m : LastSet) : Prop where
  eewe : m.eewe = l.eewe ∨ a = aEECR ∧ m.eewe = now
  pll : m.pll = l.pll ∨ a = aPLLCSR ∧ m.pll = now
  adc : m.adc = l.adc ∨ a = aADCSRA ∧ m.adc = now
  t0 : m.t0 = l.t0 ∨ (a = aTCNT0 ∨ a = aTCCR0B) ∧ (l.t0 ≤ now → m.t0 ≤ now)
  t3 : m.t3 = l.t3
  t4 : m.t4 = l.t4

theorem Stamped.refl (a now : Nat) (l : LastSet) : Stamped a now l l :=
  ⟨.inl rfl, .inl rfl, .inl rfl, .inl rfl, rfl, rfl⟩

theorem Stamped.trans {a now : Nat} {k l m : LastSet} (h : Stamped a now k l) (g : Stamped a now l m) :
    Stamped a now k m where
  eewe := g.eewe.elim (fun e => by rw [e]; exact h.eewe) .inr
  pll := g.pll.elim (fun e => by rw [e]; exact h.pll) .inr
  adc := g.adc.elim (fun e => by rw [e]; exact h.adc) .inr
  t0 := by
    rcases g.t0 with e | ⟨ha, e⟩
    · rw [e]; exact h.t0
    · refine .inr ⟨ha, fun hk => e ?_⟩
      rcases h.t0 with e' | ⟨-, e'⟩
      · rw [e']; exact hk
      · exact e' hk
  t3 := g.t3.trans h.t3
  t4 := g.t4.trans h.t4

/-- A timer0 catch-up to the present, as a store of one of timer0's registers makes it. -/
theorem advance0_stamped {a : Nat} (ha : a = aTCNT0 ∨ a = aTCCR0B) (d now : Nat) (s : State) :
    Stamped a now s.last (advance0 d now s).last := by
  obtain ⟨e, hle⟩ := advance0_last d now s
  rw [e]
  exact ⟨.inl rfl, .inl rfl, .inl rfl, .inr ⟨ha, hle⟩, rfl, rfl⟩

/-- A refresh moves timer0's baseline at most, and that at TCNT0 only (R66, 60_exceptions.md R312). -/
theorem refresh_last_eq {a : Nat} {s t : State} (h : refresh a s = .ok t) (ha : a ≠ aTCNT0) : t.last = s.last := by
  rcases refresh_cases h with ⟨-, rfl⟩ | ⟨-, rfl⟩ | ⟨-, rfl⟩ | ⟨e, -⟩ | ⟨-, rfl⟩
  · rcases refreshEecr_cases s with h | h <;> simp only [h, State.setByte_last]
  · rcases refreshPllcsr_cases s with h | ⟨-, h⟩ <;> simp only [h, State.setByte_last]
  · rcases refreshAdcsra_cases s with h | h <;> simp only [h, State.setByte_last]
  · exact absurd e ha
  · rfl

theorem refresh_stamped {a : Nat} {s t : State} (h : refresh a s = .ok t) : Stamped a s.cycles s.last t.last := by
  by_cases ha : a = aTCNT0
  · obtain ⟨e, hle⟩ := refresh_last h
    rw [e]
    exact ⟨.inl rfl, .inl rfl, .inl rfl, .inr ⟨.inl ha, hle⟩, rfl, rfl⟩
  · rw [refresh_last_eq h ha]
    exact .refl _ _ _

theorem reactEecr_stamped {old v : Byte} {s u : State} (h : reactEecr old v s = .ok u) :
    Stamped aEECR s.cycles s.last u.last := by
  obtain ⟨t, h0, h1⟩ := reactEecr_eq_ok.mp h
  have ht : t.last = (eecrStamped v s).last := by
    split at h0
    · rw [(eepromRead_eq_ok.mp h0).2]; rfl
    · rw [h0]
  have hu : u.last = t.last := by
    split at h1
    · obtain ⟨-, x, -, rfl⟩ := eepromProgram_eq_ok.mp h1; rfl
    · rw [h1]
  rw [hu, ht]
  unfold eecrStamped
  split
  · exact ⟨.inr ⟨rfl, rfl⟩, .inl rfl, .inl rfl, .inl rfl, rfl, rfl⟩
  · exact .refl _ _ _

theorem react_stamped {a : Nat} {old v : Byte} {s u : State} (h : react a old v s = .ok u) :
    Stamped a s.cycles s.last u.last := by
  rcases react_cases h with ⟨e, h⟩ | ⟨e, rfl⟩ | ⟨-, rfl⟩ | ⟨e, h⟩ | ⟨-, rfl⟩ | ⟨e, rfl⟩ | ⟨-, -, -, -, -, -, rfl⟩
  · rw [e]; exact reactEecr_stamped h
  · obtain ⟨x, n, -, hn, h⟩ := reactPllcsr_cases old v s
    rw [h]
    exact ⟨.inl rfl, hn.imp_right fun k => ⟨e, k⟩, .inl rfl, .inl rfl, rfl, rfl⟩
  · obtain ⟨x, n, l, h⟩ := reactSpdr_cases v s; rw [h]; exact .refl _ _ _
  · obtain ⟨t, ht, rfl⟩ := reactTccr0b_eq_ok.mp h
    obtain ⟨d, -, rfl⟩ := catchUp0At_eq_ok.mp ht
    have hk := advance0_stamped (.inr e) d s.cycles s
    split
    · exact hk
    · exact hk.trans ⟨.inl rfl, .inl rfl, .inl rfl, .inr ⟨.inr e, fun _ => Nat.le_refl _⟩, rfl, rfl⟩
  · rcases reactTcnt0_cases old v s with h | h <;> rw [h] <;> exact .refl _ _ _
  · rcases reactAdcsra_cases old v s with h | h <;> rw [h]
    · exact .refl _ _ _
    · exact ⟨.inl rfl, .inl rfl, .inr ⟨e, rfl⟩, .inl rfl, rfl, rfl⟩
  · rw [reactHost_eq]; exact .refl _ _ _

theorem memWrite_stamped {a : Nat} {v : Byte} {s u : State} (h : memWrite a v s = .ok u) :
    Stamped a s.cycles s.last u.last := by
  obtain ⟨-, t, ht, hu⟩ := memWrite_eq_ok.mp h
  have hr := react_stamped hu
  rw [t.rawWrite_last, storeFrame_cycles (t.rawWrite_frame a v), quiet_cycles (refresh_quiet ht)] at hr
  exact (refresh_stamped ht).trans hr

/-! ### Free values and the host's log (R77, R81, 10_state.md R27) -/

theorem reactHost_hostLog {a : Nat} (old v : Byte) {s : State} (hp : portAt a = none)
    (hd : s.params.debugHooks = true → a ≠ aSPL ∧ a ≠ aSPH) : (reactHost a old v s).hostLog = s.hostLog := by
  unfold reactHost
  rw [hp]
  dsimp only
  split
  · next e =>
    have : ¬ s.params.debugHooks = true := fun k => e.elim (hd k).1 (hd k).2
    rw [State.notify_hostLog, if_neg this]
  · rfl

/-- Outside SPDR a reaction draws no free value; outside SPDR, the ports and, where the debug hooks are attached, SP's
halves it does not call the host. -/
theorem react_host {a : Nat} {old v : Byte} {s u : State} (h : react a old v s = .ok u) (ha : a ≠ aSPDR) :
    u.draws = s.draws ∧ (portAt a = none → (s.params.debugHooks = true → a ≠ aSPL ∧ a ≠ aSPH) →
      u.hostLog = s.hostLog) := by
  rcases react_cases h with ⟨-, h⟩ | ⟨-, rfl⟩ | ⟨e, -⟩ | ⟨-, h⟩ | ⟨-, rfl⟩ | ⟨-, rfl⟩ | ⟨-, -, -, -, -, -, rfl⟩
  · rw [reactEecr_eq h]; exact ⟨rfl, fun _ _ => rfl⟩
  · obtain ⟨x, n, -, -, h⟩ := reactPllcsr_cases old v s; rw [h]; exact ⟨rfl, fun _ _ => rfl⟩
  · exact absurd e ha
  · have hq := reactTccr0b_quiet h
    exact ⟨quiet_draws hq, fun _ _ => quiet_hostLog hq⟩
  · rcases reactTcnt0_cases old v s with h | h <;> rw [h] <;> exact ⟨rfl, fun _ _ => rfl⟩
  · rcases reactAdcsra_cases old v s with h | h <;> rw [h] <;> exact ⟨rfl, fun _ _ => rfl⟩
  · exact ⟨by rw [reactHost_eq], reactHost_hostLog old v⟩

theorem State.rawWrite_host (s : State) (a : Nat) (v : Byte) :
    (s.rawWrite a v).draws = s.draws ∧ (s.rawWrite a v).hostLog = s.hostLog := by
  rcases s.rawWrite_cases a v with ⟨k, h⟩ | ⟨-, h⟩ | ⟨-, h⟩ | ⟨-, h⟩ | ⟨-, h⟩ <;> rw [h] <;> exact ⟨rfl, rfl⟩

theorem memWrite_host {a : Nat} {v : Byte} {s u : State} (h : memWrite a v s = .ok u) (ha : a ≠ aSPDR) :
    u.draws = s.draws ∧ (portAt a = none → (s.params.debugHooks = true → a ≠ aSPL ∧ a ≠ aSPH) →
      u.hostLog = s.hostLog) := by
  obtain ⟨-, t, ht, hu⟩ := memWrite_eq_ok.mp h
  have hq := refresh_quiet ht
  obtain ⟨wd, wl⟩ := t.rawWrite_host a v
  obtain ⟨hd, hl⟩ := react_host hu ha
  rw [storeFrame_params (t.rawWrite_frame a v), quiet_params hq, wl, quiet_hostLog hq] at hl
  rw [wd, quiet_draws hq] at hd
  exact ⟨hd, hl⟩

/-! ### EEPROM (R64, R74) -/

/-- A store changes the EEPROM at EECR only, at the addressed byte, which is in range. -/
theorem react_eeprom {a : Nat} {old v : Byte} {s u : State} (h : react a old v s = .ok u) :
    u.eeprom = s.eeprom
      ∨ a = aEECR ∧ s.eear < Config.eepromBytes ∧ ∃ x, u.eeprom = s.eeprom.write s.eear x := by
  rcases react_cases h with ⟨e, h⟩ | ⟨-, rfl⟩ | ⟨-, rfl⟩ | ⟨-, h⟩ | ⟨-, rfl⟩ | ⟨-, rfl⟩ | ⟨-, -, -, -, -, -, rfl⟩
  · obtain ⟨t, h0, h1⟩ := reactEecr_eq_ok.mp h
    have hst : (eecrStamped v s).eeprom = s.eeprom := by unfold eecrStamped; split <;> rfl
    have ht : t.eeprom = s.eeprom ∧ t.eear = s.eear := by
      split at h0
      · rw [(eepromRead_eq_ok.mp h0).2, eear_setEedr, eecrStamped_eear]; exact ⟨hst, rfl⟩
      · rw [h0, eecrStamped_eear]; exact ⟨hst, rfl⟩
    split at h1
    · obtain ⟨hlt, x, -, rfl⟩ := eepromProgram_eq_ok.mp h1
      rw [ht.2] at hlt
      exact .inr ⟨e, hlt, x, by rw [← ht.1, ← ht.2]⟩
    · rw [h1]; exact .inl ht.1
  · obtain ⟨x, n, -, -, h⟩ := reactPllcsr_cases old v s; rw [h]; exact .inl rfl
  · obtain ⟨x, n, l, h⟩ := reactSpdr_cases v s; rw [h]; exact .inl rfl
  · exact .inl (quiet_eeprom (reactTccr0b_quiet h))
  · rcases reactTcnt0_cases old v s with h | h <;> rw [h] <;> exact .inl rfl
  · rcases reactAdcsra_cases old v s with h | h <;> rw [h] <;> exact .inl rfl
  · rw [reactHost_eq]; exact .inl rfl

theorem memWrite_eeprom {a : Nat} {v : Byte} {s u : State} (h : memWrite a v s = .ok u) :
    u.eeprom = s.eeprom
      ∨ a = aEECR ∧ s.eear < Config.eepromBytes ∧ ∃ x, u.eeprom = s.eeprom.write s.eear x := by
  obtain ⟨-, t, ht, hu⟩ := memWrite_eq_ok.mp h
  have hw := t.rawWrite_eeprom a v
  have hq := quiet_eeprom (refresh_quiet ht)
  rcases react_eeprom hu with e | ⟨ha, hlt, x, e⟩
  · exact .inl (by rw [e, hw, hq])
  · subst ha
    have hb : ∀ b, b ≠ aEECR → (t.rawWrite aEECR v).byteAt b = s.byteAt b := fun b hb => by
      rw [t.rawWrite_byteAt _ v hb, refresh_byteAt ht (by simpa [refreshBytes, aTCNT0, aEECR] using hb)]
    have he : (t.rawWrite aEECR v).eear = s.eear := by
      rw [State.eear, State.eear, hb _ (by decide), hb _ (by decide)]
    rw [he] at hlt e
    exact .inr ⟨rfl, hlt, x, by rw [e, hw, hq]⟩

end Sys2Proof.Machine
end

/-! PROOF. The invariant, operation by operation: the memories, the timestamps and the pending mask (`StoreOk`), and apart from
them the bits of EECR and PLLCSR (`ioOk`), which a store breaks and its reaction restores (spec/20_memory.md R74, R76). -/

section
namespace Sys2Proof.Machine

/-- The invariant but for the bits of EECR and PLLCSR. -/
structure State.StoreOk (s : State) : Prop where
  data : s.dataOk = true
  stores : s.storesOk = true
  times : s.timesOk = true
  pending : s.pendingOk = true
  counts : s.cycOk = true

theorem State.inv_iff {s : State} : s.inv = true ↔ s.StoreOk ∧ s.ioOk = true := by
  simp only [State.inv, Bool.and_eq_true]
  exact ⟨fun ⟨⟨⟨⟨⟨hd, hs⟩, ht⟩, hp⟩, hi⟩, hc⟩ => ⟨⟨hd, hs, ht, hp, hc⟩, hi⟩,
    fun ⟨⟨hd, hs, ht, hp, hc⟩, hi⟩ => ⟨⟨⟨⟨⟨hd, hs⟩, ht⟩, hp⟩, hi⟩, hc⟩⟩

/-! ### The data list -/

/-- The address of a byte the data list may hold (R60). -/
def ownByte (a : Nat) : Bool :=
  decide (ioStart ≤ a) && decide (a < Config.dataSize)
    && (decide (a ≠ aSPL) && decide (a ≠ aSPH) && decide (a ≠ aSREG))

theorem ownByte_of_plainHome {a : Nat} (h : plainHome a) (ha : a < Config.dataSize) : ownByte a = true := by
  obtain ⟨h0, h1, h2, h3⟩ := h
  have h0' : ioStart ≤ a := h0
  simp [ownByte, h0', ha, h1, h2, h3]

theorem ownByte_of_inStack {a : Word} (h : inStack a = true) : ownByte a.toNat = true := by
  obtain ⟨h0, h1⟩ := (inStack_iff a).mp h
  exact ownByte_of_plainHome ⟨by omega, by simp only [aSPL]; omega, by simp only [aSPH]; omega, by simp only [aSREG]; omega⟩ h1

theorem State.dataOk_setByte {s : State} {a : Nat} (v : Byte) (h : s.dataOk = true) (ha : ownByte a = true) :
    (s.setByte a v).dataOk = true := by
  simp only [ownByte, Bool.and_eq_true, decide_eq_true_eq] at ha
  obtain ⟨⟨hlo, hhi⟩, hhome⟩ := ha
  simp only [State.dataOk, Bool.and_eq_true, List.all_eq_true, decide_eq_true_eq] at h ⊢
  obtain ⟨⟨hw, hr⟩, hall⟩ := h
  refine ⟨⟨Memory.wf_write a v hw, Memory.within_write v hr hlo hhi⟩, fun c hc => ?_⟩
  rcases Memory.mem_write hc with hm | rfl
  · exact hall c hm
  · exact hhome

/-- Two bytes written, as a push and the setting of a 16-bit counter write them. -/
theorem State.dataOk_setByte₂ {s : State} {a b : Nat} (v w : Byte) (h : s.dataOk = true) (ha : ownByte a = true)
    (hb : ownByte b = true) : ((s.setByte a v).setByte b w).dataOk = true :=
  State.dataOk_setByte w (State.dataOk_setByte v h ha) hb

theorem advance0_dataOk (d now : Nat) {s : State} (h : s.dataOk = true) : (advance0 d now s).dataOk = true := by
  rcases advance0_cases d now s with ⟨-, e⟩ | ⟨-, -, e⟩ | ⟨-, -, e⟩ <;> rw [e]
  · exact h
  · exact h
  · dsimp only
    split
    · exact State.dataOk_setByte₂ _ _ h (by decide) (by decide)
    · exact State.dataOk_setByte _ h (by decide)

theorem advance3_dataOk (d now : Nat) {s : State} (h : s.dataOk = true) : (advance3 d now s).dataOk = true := by
  rcases advance3_cases d now s with ⟨-, e⟩ | ⟨-, -, e⟩ | ⟨-, -, hit, w, -, -, e⟩
  · rw [e]; exact h
  · rw [e]; exact h
  · have ht : (if hit then setOcf3a s else s).dataOk = true := by
      split
      · exact State.dataOk_setByte _ h (by decide)
      · exact h
    have e' : (advance3 d now s).dataOk = ((if hit then setOcf3a s else s).setTcnt3 w).dataOk := by rw [e]; rfl
    rw [e']
    exact State.dataOk_setByte₂ _ _ ht (by decide) (by decide)

theorem match4_dataOk (cmp m old ticks : Nat) {s : State} (h : s.dataOk = true) :
    (match4 cmp m old ticks s).dataOk = true := by
  have ht : (setOcf4a s).dataOk = true := State.dataOk_setByte _ h (by decide)
  unfold match4
  dsimp only
  split
  · split
    · split
      · exact State.dataOk_setByte _ ht (by decide)
      · exact ht
    · exact h
  · exact h

theorem catchUp4_dataOk (now : Nat) {s : State} (h : s.dataOk = true) : (catchUp4 now s).dataOk = true := by
  rcases catchUp4_cases now s with ⟨-, e⟩ | ⟨-, -, e⟩ | ⟨-, -, m, old, ticks, t, -, -, -, ht, e⟩ <;> rw [e]
  · exact h
  · exact h
  · have htd : t.dataOk = true := by
      rw [ht]; split
      · exact State.dataOk_setByte _ h (by decide)
      · exact h
    exact State.dataOk_setByte₂ _ _ (match4_dataOk _ _ _ _ htd) (by decide) (by decide)

theorem catchUpAll_dataOk {now : Nat} {s v : State} (hc : catchUpAll now s = .ok v) (h : s.dataOk = true) :
    v.dataOk = true := by
  obtain ⟨t, u, ht, hu, rfl⟩ := catchUpAll_eq_ok.mp hc
  obtain ⟨d, -, rfl⟩ := catchUp0At_eq_ok.mp ht
  obtain ⟨-, e, -, rfl⟩ := catchUp3_eq_ok.mp hu
  exact catchUp4_dataOk now (advance3_dataOk e now (advance0_dataOk d now h))

theorem refresh_dataOk {a : Nat} {s t : State} (hr : refresh a s = .ok t) (h : s.dataOk = true) : t.dataOk = true := by
  rcases refresh_cases hr with ⟨-, rfl⟩ | ⟨-, rfl⟩ | ⟨-, rfl⟩ | ⟨-, hc⟩ | ⟨-, rfl⟩
  · rcases refreshEecr_cases s with e | e <;> rw [e]
    · exact h
    · exact State.dataOk_setByte _ h (by decide)
  · rcases refreshPllcsr_cases s with e | ⟨-, e⟩ <;> rw [e]
    · exact h
    · exact State.dataOk_setByte _ h (by decide)
  · rcases refreshAdcsra_cases s with e | e <;> rw [e]
    · exact h
    · exact State.dataOk_setByte _ h (by decide)
  · obtain ⟨d, -, rfl⟩ := catchUp0At_eq_ok.mp hc
    exact advance0_dataOk d s.cycles h
  · exact h

theorem rawWrite_dataOk {a : Nat} (v : Byte) {s : State} (ha : a < Config.dataSize) (h : s.dataOk = true) :
    (s.rawWrite a v).dataOk = true := by
  rcases s.rawWrite_cases a v with ⟨k, e⟩ | ⟨-, e⟩ | ⟨-, e⟩ | ⟨-, e⟩ | ⟨hp, e⟩ <;> rw [e]
  · exact h
  · exact h
  · exact h
  · exact h
  · exact State.dataOk_setByte v h (ownByte_of_plainHome hp ha)

theorem reactEecr_dataOk {old v : Byte} {s u : State} (hr : reactEecr old v s = .ok u) (h : s.dataOk = true) :
    u.dataOk = true := by
  obtain ⟨t, h0, h1⟩ := reactEecr_eq_ok.mp hr
  have hs : (eecrStamped v s).dataOk = true := by
    unfold eecrStamped
    split <;> exact State.dataOk_setByte _ h (by decide)
  have ht : t.dataOk = true := by
    split at h0
    · rw [(eepromRead_eq_ok.mp h0).2]; exact State.dataOk_setByte _ hs (by decide)
    · rw [h0]; exact hs
  split at h1
  · obtain ⟨-, x, -, rfl⟩ := eepromProgram_eq_ok.mp h1; exact ht
  · rw [h1]; exact ht

theorem react_dataOk {a : Nat} {old v : Byte} {s u : State} (hr : react a old v s = .ok u) (h : s.dataOk = true) :
    u.dataOk = true := by
  rcases react_cases hr with ⟨-, hr⟩ | ⟨-, rfl⟩ | ⟨-, rfl⟩ | ⟨-, hr⟩ | ⟨-, rfl⟩ | ⟨-, rfl⟩ | ⟨-, -, -, -, -, -, rfl⟩
  · exact reactEecr_dataOk hr h
  · obtain ⟨x, n, -, -, e⟩ := reactPllcsr_cases old v s
    rw [e]; exact State.dataOk_setByte x h (by decide)
  · obtain ⟨x, n, l, e⟩ := reactSpdr_cases v s
    rw [e]; exact State.dataOk_setByte x h (by decide)
  · obtain ⟨t, ht, rfl⟩ := reactTccr0b_eq_ok.mp hr
    obtain ⟨d, -, rfl⟩ := catchUp0At_eq_ok.mp ht
    split <;> exact advance0_dataOk d s.cycles h
  · rcases reactTcnt0_cases old v s with e | e <;> rw [e]
    · exact h
    · exact State.dataOk_setByte _ h (by decide)
  · rcases reactAdcsra_cases old v s with e | e <;> rw [e] <;> exact h
  · rw [reactHost_eq]; exact h

/-! ### Timestamps and EEPROM -/

theorem State.timesOk_iff {s : State} :
    s.timesOk = true ↔ s.last.eewe ≤ s.cycles ∧ s.last.pll ≤ s.cycles ∧ s.last.t0 ≤ s.cycles ∧ s.last.t3 ≤ s.cycles
      ∧ s.last.t4 ≤ s.cycles ∧ s.last.adc ≤ s.cycles := by
  simp only [State.timesOk, Bool.and_eq_true, decide_eq_true_eq, and_assoc]

theorem timesOk_of_stamped {a : Nat} {s t : State} (h : s.timesOk = true) (hl : Stamped a s.cycles s.last t.last)
    (hc : t.cycles = s.cycles) : t.timesOk = true := by
  obtain ⟨he, hp, h0, h3, h4, ha⟩ := State.timesOk_iff.mp h
  obtain ⟨ke, kp, ka, k0, k3, k4⟩ := hl
  rw [State.timesOk_iff, hc]
  refine ⟨?_, ?_, ?_, by omega, by omega, ?_⟩
  · rcases ke with e | ⟨-, e⟩ <;> omega
  · rcases kp with e | ⟨-, e⟩ <;> omega
  · rcases k0 with e | ⟨-, e⟩
    · omega
    · exact e h0
  · rcases ka with e | ⟨-, e⟩ <;> omega

theorem memWrite_storesOk {a : Nat} {v : Byte} {s u : State} (hw : memWrite a v s = .ok u) (h : s.storesOk = true) :
    u.storesOk = true := by
  simp only [State.storesOk, Bool.and_eq_true] at h ⊢
  obtain ⟨⟨⟨hwf, hin⟩, hfw⟩, hfi⟩ := h
  rw [storeFrame_flash (memWrite_frame hw)]
  refine ⟨⟨?_, hfw⟩, hfi⟩
  rcases memWrite_eeprom hw with e | ⟨-, hlt, x, e⟩ <;> rw [e]
  · exact ⟨hwf, hin⟩
  · exact ⟨Memory.wf_write _ x hwf, Memory.within_write x hin (Nat.zero_le _) hlt⟩

/-! ### The bits of EECR and PLLCSR -/

/-- `ioOk` sees these two bytes alone. -/
theorem State.ioOk_congr {s t : State} (h : s.ioOk = true) (he : t.byteAt aEECR = s.byteAt aEECR)
    (hp : t.byteAt aPLLCSR = s.byteAt aPLLCSR) : t.ioOk = true := by
  simp only [State.ioOk, State.ioBit, he, hp] at h ⊢
  exact h

theorem State.ioOk_iff {s : State} :
    s.ioOk = true ↔ ((s.byteAt aEECR).getLsbD 0 = false ∧ (s.byteAt aEECR).getLsbD 1 = false)
      ∧ ((s.byteAt aPLLCSR).getLsbD 0 = true → (s.byteAt aPLLCSR).getLsbD 1 = true) := by
  simp only [State.ioOk, State.ioBit, Bool.and_eq_true, Bool.not_eq_true', Bool.or_eq_true]
  cases (s.byteAt aPLLCSR).getLsbD 0 <;> simp

/-- A read that clears EEMPE leaves EERE and EEPE (R73). -/
theorem refreshEecr_ioOk {s : State} (h : s.ioOk = true) : (refreshEecr s).ioOk = true := by
  have hbits : ∀ v : Byte, (clearBit v 2).getLsbD 0 = v.getLsbD 0 ∧ (clearBit v 2).getLsbD 1 = v.getLsbD 1 := by decide
  rcases refreshEecr_cases s with e | e <;> rw [e]
  · exact h
  · obtain ⟨he, hp⟩ := State.ioOk_iff.mp h
    rw [State.ioOk_iff, State.byteAt_setByte_same, State.byteAt_setByte_other s _ (by decide : aPLLCSR ≠ aEECR),
      (hbits _).1, (hbits _).2]
    exact ⟨he, hp⟩

/-- A read that sets PLOCK does so while PLLE is 1 (R75). -/
theorem refreshPllcsr_ioOk {s : State} (h : s.ioOk = true) : (refreshPllcsr s).ioOk = true := by
  have hbit : ∀ v : Byte, (setBit v 0).getLsbD 1 = v.getLsbD 1 := by decide
  rcases refreshPllcsr_cases s with e | ⟨hen, e⟩ <;> rw [e]
  · exact h
  · obtain ⟨he, -⟩ := State.ioOk_iff.mp h
    rw [State.ioOk_iff, State.byteAt_setByte_same, State.byteAt_setByte_other s _ (by decide : aEECR ≠ aPLLCSR), hbit]
    exact ⟨he, fun _ => hen⟩

theorem refresh_ioOk {a : Nat} {s t : State} (hr : refresh a s = .ok t) (h : s.ioOk = true) : t.ioOk = true := by
  rcases refresh_cases hr with ⟨-, rfl⟩ | ⟨-, rfl⟩ | ⟨ha, -⟩ | ⟨ha, -⟩ | ⟨-, rfl⟩
  · exact refreshEecr_ioOk h
  · exact refreshPllcsr_ioOk h
  · subst ha
    exact State.ioOk_congr h (refresh_byteAt hr (by decide)) (refresh_byteAt hr (by decide))
  · subst ha
    exact State.ioOk_congr h (refresh_byteAt hr (by decide)) (refresh_byteAt hr (by decide))
  · exact h

/-- Only a store to EECR may change EECR, and only one to PLLCSR PLLCSR. -/
theorem eq_of_mem_writeBytesAt {a b : Nat} (hb : b = aEECR ∨ b = aPLLCSR) (h : b ∈ writeBytesAt a) : a = b := by
  unfold writeBytesAt at h
  split at h
  · rcases hb with rfl | rfl
    · assumption
    · exact absurd h (by decide)
  split at h
  · rcases hb with rfl | rfl <;> exact absurd h (by decide)
  split at h
  · rcases hb with rfl | rfl <;> exact absurd h (by decide)
  · exact (List.mem_singleton.mp h).symm

/-- A store to EECR leaves EERE and EEPE 0 (R74). -/
theorem reactEecr_bits {old v : Byte} {s u : State} (h : reactEecr old v s = .ok u) :
    u.byteAt aEECR = clearBit (clearBit v 0) 1 := by
  obtain ⟨t, h0, h1⟩ := reactEecr_eq_ok.mp h
  have hs : (eecrStamped v s).byteAt aEECR = clearBit (clearBit v 0) 1 := by
    unfold eecrStamped
    split <;> exact State.byteAt_setByte_same s aEECR _
  have ht : t.byteAt aEECR = clearBit (clearBit v 0) 1 := by
    split at h0
    · rw [(eepromRead_eq_ok.mp h0).2, State.byteAt_setByte_other _ _ (by decide : aEECR ≠ aEEDR), hs]
    · rw [h0, hs]
  split at h1
  · obtain ⟨-, x, -, rfl⟩ := eepromProgram_eq_ok.mp h1; exact ht
  · rw [h1, ht]

theorem memWrite_ioOk {a : Nat} {v : Byte} {s u : State} (hw : memWrite a v s = .ok u) (h : s.ioOk = true) :
    u.ioOk = true := by
  have hkeep : ∀ b, (b = aEECR ∨ b = aPLLCSR) → a ≠ b → u.byteAt b = s.byteAt b := fun b hb hab =>
    memWrite_byteAt hw fun hmem => hab (eq_of_mem_writeBytesAt hb hmem)
  obtain ⟨-, t, -, hu⟩ := memWrite_eq_ok.mp hw
  obtain ⟨he, hp⟩ := State.ioOk_iff.mp h
  by_cases hea : a = aEECR
  · subst hea
    have hbits : ∀ w : Byte, (clearBit (clearBit w 0) 1).getLsbD 0 = false ∧ (clearBit (clearBit w 0) 1).getLsbD 1 = false := by
      decide
    have hr : reactEecr (t.rawRead aEECR) v (t.rawWrite aEECR v) = .ok u := hu
    rw [State.ioOk_iff, reactEecr_bits hr, hkeep _ (.inr rfl) (by decide)]
    exact ⟨hbits v, hp⟩
  · by_cases hpa : a = aPLLCSR
    · subst hpa
      obtain ⟨x, n, hx, -, e⟩ := reactPllcsr_cases (t.rawRead aPLLCSR) v (t.rawWrite aPLLCSR v)
      have hr : u = reactPllcsr (t.rawRead aPLLCSR) v (t.rawWrite aPLLCSR v) := (Except.ok.inj hu).symm
      rw [State.ioOk_iff, hkeep _ (.inl rfl) hea, hr, e, State.setLastPll_byteAt, State.byteAt_setByte_same]
      exact ⟨he, hx⟩
    · exact State.ioOk_congr h (hkeep _ (.inl rfl) hea) (hkeep _ (.inr rfl) hpa)

/-! ### The invariant through each operation -/

/-- What keeps the stores, flash, the pending mask and the parameters, needs its data bytes and timestamps checked only. -/
theorem quiet_storeOk {s t : State} (hq : quiet s t) (h : s.StoreOk) (hd : t.dataOk = true) (ht : t.timesOk = true) :
    t.StoreOk where
  data := hd
  stores := by rw [State.storesOk, quiet_eeprom hq, quiet_flash hq]; exact h.stores
  times := ht
  pending := by rw [State.pendingOk, quiet_pending hq]; exact h.pending
  counts := by rw [State.cycOk, quiet_params hq]; exact h.counts

theorem memRead_inv {a : Nat} {v : Byte} {s t : State} (hr : memRead a s = .ok (v, t)) (h : s.inv = true) :
    t.inv = true := by
  obtain ⟨hs, hio⟩ := State.inv_iff.mp h
  obtain ⟨-, hr, -⟩ := memRead_eq_ok.mp hr
  have hq := refresh_quiet hr
  exact State.inv_iff.mpr ⟨quiet_storeOk hq hs (refresh_dataOk hr hs.data)
    (timesOk_of_stamped hs.times (refresh_stamped hr) (quiet_cycles hq)), refresh_ioOk hr hio⟩

theorem memWrite_inv {a : Nat} {v : Byte} {s u : State} (hw : memWrite a v s = .ok u) (h : s.inv = true) :
    u.inv = true := by
  obtain ⟨hs, hio⟩ := State.inv_iff.mp h
  obtain ⟨ha, t, ht, hu⟩ := memWrite_eq_ok.mp hw
  have hf := memWrite_frame hw
  refine State.inv_iff.mpr ⟨⟨?_, memWrite_storesOk hw hs.stores, ?_, ?_, ?_⟩, memWrite_ioOk hw hio⟩
  · exact react_dataOk hu (rawWrite_dataOk v ha (refresh_dataOk ht hs.data))
  · exact timesOk_of_stamped hs.times (memWrite_stamped hw) (storeFrame_cycles hf)
  · rw [State.pendingOk, storeFrame_pending hf]; exact hs.pending
  · rw [State.cycOk, storeFrame_params hf]; exact hs.counts

/-- A byte outside EECR and PLLCSR is written. -/
theorem State.inv_setByte {s : State} {a : Nat} (v : Byte) (h : s.inv = true) (ha : ownByte a = true) (he : a ≠ aEECR)
    (hp : a ≠ aPLLCSR) : (s.setByte a v).inv = true := by
  obtain ⟨hs, hio⟩ := State.inv_iff.mp h
  exact State.inv_iff.mpr ⟨⟨State.dataOk_setByte v hs.data ha, hs.stores, hs.times, hs.pending, hs.counts⟩,
    State.ioOk_congr hio (State.byteAt_setByte_other s v he.symm) (State.byteAt_setByte_other s v hp.symm)⟩

theorem State.inv_setByte_inStack {s : State} {a : Word} (v : Byte) (h : s.inv = true) (ha : inStack a = true) :
    (s.setByte a.toNat v).inv = true := by
  obtain ⟨hlo, -⟩ := (inStack_iff a).mp ha
  exact State.inv_setByte v h (ownByte_of_inStack ha) (by simp only [aEECR]; omega) (by simp only [aPLLCSR]; omega)

theorem pushAddr_inv {a : Word} {s t : State} (hp : pushAddr a s = .ok t) (h : s.inv = true) : t.inv = true := by
  obtain ⟨h0, h1, rfl⟩ := pushAddr_eq_ok.mp hp
  exact State.inv_setByte_inStack _ (State.inv_setByte_inStack (lo8 a) h h0) h1

/-- Time only goes on. -/
theorem State.inv_later {s : State} {n : Nat} (h : s.inv = true) (hn : s.cycles ≤ n) :
    ({ s with cycles := n } : State).inv = true := by
  obtain ⟨hs, hio⟩ := State.inv_iff.mp h
  obtain ⟨he, hp, h0, h3, h4, ha⟩ := State.timesOk_iff.mp hs.times
  refine State.inv_iff.mpr ⟨⟨hs.data, hs.stores, State.timesOk_iff.mpr ?_, hs.pending, hs.counts⟩, hio⟩
  exact ⟨he.trans hn, hp.trans hn, h0.trans hn, h3.trans hn, h4.trans hn, ha.trans hn⟩

theorem State.inv_setPending {s : State} {p : BitVec 43} (h : s.inv = true)
    (hp : ({ s with pending := p } : State).pendingOk = true) : ({ s with pending := p } : State).inv = true := by
  obtain ⟨hs, hio⟩ := State.inv_iff.mp h
  exact State.inv_iff.mpr ⟨⟨hs.data, hs.stores, hs.times, hp, hs.counts⟩, hio⟩

/-! ### The tail of a step -/

theorem catchUpAll_inv {s v : State} (hc : catchUpAll s.cycles s = .ok v) (h : s.inv = true) : v.inv = true := by
  obtain ⟨hs, hio⟩ := State.inv_iff.mp h
  obtain ⟨he, hp, h0, h3, h4, ha⟩ := State.timesOk_iff.mp hs.times
  obtain ⟨ke, kp, ka, k0, k3, k4⟩ := catchUpAll_last hc
  have hq := catchUpAll_quiet hc
  refine State.inv_iff.mpr ⟨quiet_storeOk hq hs (catchUpAll_dataOk hc hs.data) (State.timesOk_iff.mpr ?_),
    State.ioOk_congr hio (catchUpAll_byteAt hc (by decide)) (catchUpAll_byteAt hc (by decide))⟩
  rw [quiet_cycles hq, ke, kp, ka]
  exact ⟨he, hp, k0 h0, k3 h3, k4 h4, ha⟩

/-- The vectors of R281, as a mask. -/
def sourceMask : BitVec 43 := 1#43 <<< 23 ||| 1#43 <<< 32 ||| 1#43 <<< 38 ||| 1#43 <<< 41

theorem State.pendingOk_iff {s : State} : s.pendingOk = true ↔ s.pending &&& ~~~sourceMask = 0 := decide_eq_true_iff

theorem and_not_sourceMask_or {p q : BitVec 43} (hp : p &&& ~~~sourceMask = 0) (hq : q &&& ~~~sourceMask = 0) :
    (p ||| q) &&& ~~~sourceMask = 0 := by
  rw [BitVec.and_or_distrib_right, hp, hq]; rfl

theorem sourceBit_and_not_sourceMask (s : State) {src : IrqSource} (h : src ∈ irqSources) :
    sourceBit s src &&& ~~~sourceMask = 0 := by
  have hv : ∀ src ∈ irqSources, (1#43 <<< src.vector.val) &&& ~~~sourceMask = 0 := by decide
  unfold sourceBit
  split
  · exact hv src h
  · rfl

theorem recognise_inv {s : State} (h : s.inv = true) : (recognise s).inv = true := by
  obtain ⟨hs, -⟩ := State.inv_iff.mp h
  rw [recognise_eq]
  refine State.inv_setPending h (State.pendingOk_iff.mpr ?_)
  have hb := fun src (hsrc : src ∈ irqSources) => sourceBit_and_not_sourceMask s hsrc
  exact and_not_sourceMask_or (and_not_sourceMask_or (and_not_sourceMask_or (and_not_sourceMask_or
    (State.pendingOk_iff.mp hs.pending) (hb _ (by decide))) (hb _ (by decide))) (hb _ (by decide))) (hb _ (by decide))

theorem clearSourceFlag_inv (n : Fin 43) {s : State} (h : s.inv = true) : (clearSourceFlag n s).inv = true := by
  have hreg : ∀ src ∈ irqSources, ownByte src.flagReg = true ∧ src.flagReg ≠ aEECR ∧ src.flagReg ≠ aPLLCSR := by decide
  rcases clearSourceFlag_eq n s with e | ⟨src, hsrc, -, e⟩ <;> rw [e]
  · exact h
  · obtain ⟨ho, he, hp⟩ := hreg src hsrc
    exact State.inv_setByte _ h ho he hp

theorem takeInterrupt_inv {n : Fin 43} {s t : State} (ht : takeInterrupt n s = .ok t) (h : s.inv = true) :
    t.inv = true := by
  obtain ⟨h0, h1, u, rfl, rfl⟩ := takeInterrupt_eq_ok.mp ht
  generalize hu : clearSourceFlag n _ = u
  have hinv : u.inv = true := by
    rw [← hu]
    exact clearSourceFlag_inv n (State.inv_setByte_inStack _ (State.inv_setByte_inStack _ h h0) h1)
  obtain ⟨hs, -⟩ := State.inv_iff.mp hinv
  have hp : u.pending &&& ~~~(1#43 <<< n.val) &&& ~~~sourceMask = 0 := by
    rw [BitVec.and_assoc, BitVec.and_comm (~~~(1#43 <<< n.val)), ← BitVec.and_assoc, State.pendingOk_iff.mp hs.pending]
    exact BitVec.zero_and
  exact State.inv_later (State.inv_setPending hinv (State.pendingOk_iff.mpr hp)) (Nat.le_add_right _ _)

theorem dispatch_inv {s t : State} (hd : dispatch s = .ok t) (h : s.inv = true) : t.inv = true := by
  rcases dispatch_eq_ok.mp hd with ⟨-, rfl⟩ | ⟨-, n, -, ht⟩
  · exact h
  · exact takeInterrupt_inv ht h

theorem afterBody_inv {s v : State} (ha : afterBody s = .ok v) (h : s.inv = true) : v.inv = true := by
  obtain ⟨t, ht, hd⟩ := afterBody_eq_ok.mp ha
  exact dispatch_inv hd (recognise_inv (catchUpAll_inv ht h))

end Sys2Proof.Machine
end

/-! PROOF. Said once for all 85 instructions: an instruction that answers has had one of ten effects on the state, and after it
pc and the cycle counter move (spec/30_encoding.md R106, 70_reset_and_hazards.md R360). Every frame is read off the effect. -/

section
namespace Sys2Proof.Machine

/-- The effect of an instruction but for its move of pc and the cycle counter: on registers and flags alone; a load or a store
through the access points, with the registers it names written after it; the read, change and write of an I/O byte; SLEEP; or
one of the stack's operations. -/
inductive Effect (i : Instr) (s : State) : State → Prop
  | regs (g : Vector Byte 32) (f : Flags) (hl : loadTarget s i = none) (hs : storeTarget s i = none)
      (hg : regsKept (namedWrites i) s { s with gpr := g }) (hf : flagsKept (flagColumns i) s { s with flags := f }) :
      Effect i s { s with gpr := g, flags := f }
  | load {a : Nat} {v : Byte} {r : State} (g : Vector Byte 32) (hl : loadTarget s i = some a) (hs : storeTarget s i = none)
      (hr : memRead a s = .ok (v, r)) (hg : regsKept (namedWrites i) r { r with gpr := g }) :
      Effect i s { r with gpr := g }
  | store {a : Nat} {v : Byte} {w : State} (g : Vector Byte 32) (hl : loadTarget s i = none) (hs : storeTarget s i = some a)
      (hw : memWrite a v s = .ok w) (hg : regsKept (namedWrites i) w { w with gpr := g }) :
      Effect i s { w with gpr := g }
  | modify {a : Nat} {v x : Byte} {r w : State} (hl : loadTarget s i = some a) (hs : storeTarget s i = some a)
      (hr : memRead a s = .ok (v, r)) (hw : memWrite a x r = .ok w) : Effect i s w
  | sleep (b : Bool) (hi : i = .sleep) : Effect i s { s with sleeping := b }
  | call {a : Word} {u : State} (hi : (∃ k, i = .rcall k) ∨ i = .icall ∨ ∃ k, i = .call k) (hp : pushAddr a s = .ok u) :
      Effect i s u
  | ret {a : Word} {u : State} (hi : i = .ret) (hp : popAddr s = .ok (a, u)) : Effect i s u
  | reti {u : State} (hi : i = .reti) (hp : returnFromInterrupt s = .ok u) : Effect i s u
  | push {r : Reg} {u : State} (hi : i = .push r) (hp : pushByte (s.reg r) s = .ok u) : Effect i s u
  | pop {d : Reg} {v : Byte} {u : State} (hi : i = .pop d) (hp : popByte s = .ok (v, u)) : Effect i s (u.setReg d v)

/-- From `s` the instruction has its effect, charges one of its counts, and leaves `t`. -/
def Performs (i : Instr) (s t : State) : Prop :=
  ∃ u p c, Effect i s u ∧ c ∈ cycCases i ∧ t = u.jump p (s.params.cyc c)

/-! ### Flags outside an instruction's columns (10_state.md R57) -/

/-- T and I are outside the columns of the additions, subtractions and compares. -/
theorem Flags.get_of_not_arith {f g : Flags} (ht : g.t = f.t) (hi : g.i = f.i) :
    ∀ k ∉ ([0, 1, 2, 3, 4, 5] : List BitNo), g.get k = f.get k := by
  intro k hk
  have : k = 6 ∨ k = 7 := by revert k; decide
  rcases this with rfl | rfl
  · exact ht
  · exact hi

/-- H too is outside the columns of COM, the shifts and the word operations. -/
theorem Flags.get_of_not_shift {f g : Flags} (hh : g.h = f.h) (ht : g.t = f.t) (hi : g.i = f.i) :
    ∀ k ∉ ([0, 1, 2, 3, 4] : List BitNo), g.get k = f.get k := by
  intro k hk
  by_cases h : k = 5
  · rw [h]; exact hh
  · refine Flags.get_of_not_arith ht hi k fun hm => ?_
    revert k; decide

/-- C too is outside the columns of the logic operations, INC and DEC. -/
theorem Flags.get_of_not_logic {f g : Flags} (hc : g.c = f.c) (hh : g.h = f.h) (ht : g.t = f.t) (hi : g.i = f.i) :
    ∀ k ∉ ([1, 2, 3, 4] : List BitNo), g.get k = f.get k := by
  intro k hk
  by_cases h : k = 0
  · rw [h]; exact hc
  · refine Flags.get_of_not_shift hh ht hi k fun hm => ?_
    revert k; decide

/-- The multiplies write C and Z. -/
theorem Flags.get_of_not_mul (f : Flags) (c z : Bool) :
    ∀ k ∉ ([0, 1] : List BitNo), ({ f with c := c, z := z } : Flags).get k = f.get k := by
  intro k hk
  have : k = 2 ∨ k = 3 ∨ k = 4 ∨ k = 5 ∨ k = 6 ∨ k = 7 := by revert k; decide
  rcases this with rfl | rfl | rfl | rfl | rfl | rfl <;> rfl

theorem Flags.get_put (f : Flags) (j k : BitNo) (b : Bool) : (f.put j b).get k = if k = j then b else f.get k := by
  fin_cases j <;> fin_cases k <;> rfl

theorem Flags.get_put_other (f : Flags) (j : BitNo) (b : Bool) : ∀ k ∉ [j], (f.put j b).get k = f.get k := by
  intro k hk
  rw [Flags.get_put, if_neg (by simpa using hk)]

/-! ### Effects on registers and flags alone -/

/-- A meaning that answers `s`. -/
abbrev answer (s : State) : Host.Outcome State Fault Refusal := .next s

section
variable {i : Instr} {s t : State} {c : CycCase}

/-- A move of pc alone. -/
theorem performs_jump {p : Word} (h : answer (s.jump p (s.cyc c)) = .next t) (hl : loadTarget s i = none)
    (hs : storeTarget s i = none) (hc : c ∈ cycCases i) : Performs i s t := by
  cases h
  exact ⟨s, p, c, .regs s.gpr s.flags hl hs (fun _ _ => rfl) (fun _ _ => rfl), hc, rfl⟩

theorem performs_setFlags {f : Flags} (h : answer ((s.setFlags f).advance 1 (s.cyc c)) = .next t)
    (hl : loadTarget s i = none) (hs : storeTarget s i = none) (hc : cycCases i = [c])
    (hf : flagsKept (flagColumns i) s { s with flags := f }) : Performs i s t := by
  cases h
  exact ⟨s.setFlags f, _, c, .regs s.gpr f hl hs (fun _ _ => rfl) hf, by simp [hc], rfl⟩

theorem State.regsKept_setReg (d : Reg) (v : Byte) : regsKept [d] s (s.setReg d v) := fun r hr =>
  State.reg_setReg_other s v (by simpa using hr)

theorem State.regsKept_setPair (d : Reg) (v : Word) : regsKept [d, d + 1] s (s.setPair d v) := fun r hr => by
  simp only [List.mem_cons, List.not_mem_nil, or_false, not_or] at hr
  rw [State.reg_setPair, if_neg hr.2, if_neg hr.1]

theorem performs_setReg {d : Reg} {v : Byte} (h : answer ((s.setReg d v).advance 1 (s.cyc c)) = .next t)
    (hl : loadTarget s i = none) (hs : storeTarget s i = none) (hc : cycCases i = [c]) (hd : namedWrites i = [d]) :
    Performs i s t := by
  cases h
  exact ⟨s.setReg d v, _, c, .regs (s.setReg d v).gpr s.flags hl hs (hd ▸ State.regsKept_setReg d v) (fun _ _ => rfl),
    by simp [hc], rfl⟩

theorem performs_setPair {d : Reg} {v : Word} (h : answer ((s.setPair d v).advance 1 (s.cyc c)) = .next t)
    (hl : loadTarget s i = none) (hs : storeTarget s i = none) (hc : cycCases i = [c]) (hd : namedWrites i = [d, d + 1]) :
    Performs i s t := by
  cases h
  exact ⟨s.setPair d v, _, c, .regs (s.setPair d v).gpr s.flags hl hs (hd ▸ State.regsKept_setPair d v) (fun _ _ => rfl),
    by simp [hc], rfl⟩

theorem performs_writeAlu {d : Reg} {x : Alu 8} (h : answer (writeAlu c d x s) = .next t)
    (hl : loadTarget s i = none) (hs : storeTarget s i = none) (hc : cycCases i = [c]) (hd : namedWrites i = [d])
    (hf : flagsKept (flagColumns i) s { s with flags := x.flags }) : Performs i s t := by
  cases h
  exact ⟨(s.setReg d x.result).setFlags x.flags, _, c,
    .regs (s.setReg d x.result).gpr x.flags hl hs (hd ▸ State.regsKept_setReg d x.result) hf, by simp [hc], rfl⟩

theorem performs_writeAluPair {d : Reg} {x : Alu 16} (h : answer (writeAluPair c d x s) = .next t)
    (hl : loadTarget s i = none) (hs : storeTarget s i = none) (hc : cycCases i = [c]) (hd : namedWrites i = [d, d + 1])
    (hf : flagsKept (flagColumns i) s { s with flags := x.flags }) : Performs i s t := by
  cases h
  exact ⟨(s.setPair d x.result).setFlags x.flags, _, c,
    .regs (s.setPair d x.result).gpr x.flags hl hs (hd ▸ State.regsKept_setPair d x.result) hf, by simp [hc], rfl⟩

theorem performs_branchIf {k : Bool → CycCase} {b : Bool} {q : BitVec 7}
    (h : answer (branchIf k b q s) = .next t) (hl : loadTarget s i = none) (hs : storeTarget s i = none)
    (hc : cycCases i = [k true, k false]) : Performs i s t := by
  unfold branchIf at h
  split at h
  · exact performs_jump h hl hs (by simp [hc])
  · exact performs_jump (c := k false) h hl hs (by simp [hc])

/-- A skip that answers is a move of pc, after whatever effect came before it. -/
theorem performs_skipIf {k : Nat → CycCase} {b : Bool} {u : State} (h : skipIf k b u = .ok t) (he : Effect i s u)
    (hp : u.params = s.params) (hc : cycCases i = [k 0, k 1, k 2]) : Performs i s t := by
  rcases skipIf_eq_ok.mp h with ⟨-, rfl⟩ | ⟨-, w, -, rfl⟩
  · exact ⟨u, _, k 0, he, by simp [hc], by rw [← hp]; rfl⟩
  · split
    · exact ⟨u, _, k 2, he, by simp [hc], by rw [← hp]; rfl⟩
    · exact ⟨u, _, k 1, he, by simp [hc], by rw [← hp]; rfl⟩

theorem performs_skipIf_regs {k : Nat → CycCase} {b : Bool} (h : outcome (skipIf k b s) = .next t)
    (hl : loadTarget s i = none) (hs : storeTarget s i = none) (hc : cycCases i = [k 0, k 1, k 2]) : Performs i s t :=
  performs_skipIf (outcome_eq_next.mp h) (.regs s.gpr s.flags hl hs (fun _ _ => rfl) (fun _ _ => rfl)) rfl hc

/-! ### Loads, stores and the stack -/

/-- The registers a pointer form updates. -/
def PtrMode.updates (m : PtrMode) (p : Ptr) : List Reg :=
  match m with
  | .plain => []
  | .postInc => p.regs
  | .preDec => p.regs

theorem regsKept_writeBack (p : Ptr) (m : PtrMode) (w : Word) (s : State) : regsKept (m.updates p) s (writeBack p m w s) := by
  cases m with
  | plain => exact fun _ _ => rfl
  | postInc => exact State.regsKept_setPair _ _
  | preDec => exact State.regsKept_setPair _ _

theorem writeBack_gpr (p : Ptr) (m : PtrMode) (w : Word) (s : State) : ∃ g, writeBack p m w s = { s with gpr := g } :=
  ⟨_, writeBack_eq p m w s⟩

theorem regsKept_writeBack_setReg (p : Ptr) (m : PtrMode) (w : Word) (d : Reg) (v : Byte) (s : State) :
    regsKept (d :: m.updates p) s ((writeBack p m w s).setReg d v) := fun r hr => by
  obtain ⟨hd, hm⟩ : r ≠ d ∧ r ∉ m.updates p := by simpa using hr
  rw [State.reg_setReg_other _ _ hd, regsKept_writeBack p m w s r hm]

theorem performs_loadFrom {ea : Word} {d : Reg} {n : Nat} (h : outcome (loadFrom ea d n c s) = .next t)
    (hl : loadTarget s i = some ea.toNat) (hs : storeTarget s i = none) (hc : cycCases i = [c])
    (hd : namedWrites i = [d]) : Performs i s t := by
  obtain ⟨v, r, hr, rfl⟩ := loadFrom_eq_ok.mp (outcome_eq_next.mp h)
  exact ⟨r.setReg d v, _, c, .load _ hl hs hr (hd ▸ State.regsKept_setReg d v), by simp [hc], rfl⟩

theorem performs_loadPtr {p : Ptr} {m : PtrMode} {d : Reg} (h : outcome (loadPtr p m d s) = .next t)
    (hl : loadTarget s i = some (m.address (s.ptr p)).toNat) (hs : storeTarget s i = none) (hc : cycCases i = [.ld])
    (hd : namedWrites i = d :: m.updates p) : Performs i s t := by
  obtain ⟨-, v, r, hr, rfl⟩ := loadPtr_eq_ok.mp (outcome_eq_next.mp h)
  refine ⟨(writeBack p m (s.ptr p) r).setReg d v, _, .ld, ?_, by simp [hc], rfl⟩
  have hk := regsKept_writeBack_setReg p m (s.ptr p) d v r
  obtain ⟨g, e⟩ := writeBack_gpr p m (s.ptr p) r
  rw [← hd, e] at hk
  rw [e]
  exact .load (r := r) _ hl hs hr hk

theorem performs_storeTo {ea : Word} {v : Byte} {n : Nat} (h : outcome (storeTo ea v n c s) = .next t)
    (hl : loadTarget s i = none) (hs : storeTarget s i = some ea.toNat) (hc : cycCases i = [c]) : Performs i s t := by
  obtain ⟨w, hw, rfl⟩ := storeTo_eq_ok.mp (outcome_eq_next.mp h)
  exact ⟨w, _, c, .store w.gpr hl hs hw (fun _ _ => rfl), by simp [hc], rfl⟩

theorem performs_storePtr {p : Ptr} {m : PtrMode} {r : Reg} (h : outcome (storePtr p m r s) = .next t)
    (hl : loadTarget s i = none) (hs : storeTarget s i = some (m.address (s.ptr p)).toNat) (hc : cycCases i = [.st])
    (hd : namedWrites i = m.updates p) : Performs i s t := by
  obtain ⟨-, w, hw, rfl⟩ := storePtr_eq_ok.mp (outcome_eq_next.mp h)
  refine ⟨writeBack p m (s.ptr p) w, _, .st, ?_, by simp [hc], rfl⟩
  have hk := regsKept_writeBack p m (s.ptr p) w
  obtain ⟨g, e⟩ := writeBack_gpr p m (s.ptr p) w
  rw [← hd, e] at hk
  rw [e]
  exact .store g hl hs hw hk

/-- LPM reads flash: of the data space it changes registers alone. -/
theorem performs_loadFlash {m : PtrMode} {d : Reg} (h : outcome (loadFlash m d s) = .next t)
    (hl : loadTarget s i = none) (hs : storeTarget s i = none) (hc : cycCases i = [.lpm])
    (hd : namedWrites i = d :: m.updates .z) : Performs i s t := by
  obtain ⟨-, -, rfl⟩ := loadFlash_eq_ok.mp (outcome_eq_next.mp h)
  refine ⟨(writeBack .z m (s.ptr .z) s).setReg d (s.flashAt (s.ptr .z).toNat), _, .lpm, ?_, by simp [hc], rfl⟩
  have hk := regsKept_writeBack_setReg .z m (s.ptr .z) d (s.flashAt (s.ptr .z).toNat) s
  obtain ⟨g, e⟩ := writeBack_gpr .z m (s.ptr .z) s
  rw [← hd, e] at hk
  rw [e]
  exact .regs _ s.flags hl hs hk (fun _ _ => rfl)

theorem performs_modifyIo {a : Nat} {f : Byte → Byte} (h : outcome (modifyIo c a f s) = .next t)
    (hl : loadTarget s i = some a) (hs : storeTarget s i = some a) (hc : cycCases i = [c]) : Performs i s t := by
  obtain ⟨v, r, w, hr, hw, rfl⟩ := modifyIo_eq_ok.mp (outcome_eq_next.mp h)
  exact ⟨w, _, c, .modify hl hs hr hw, by simp [hc], rfl⟩

/-- SBIC and SBIS: a read, then a skip. -/
theorem performs_read_skipIf {a : Nat} {v : Byte} {r : State} {k : Nat → CycCase} {b : Bool}
    (hr : memRead a s = .ok (v, r)) (h : skipIf k b r = .ok t) (hl : loadTarget s i = some a)
    (hs : storeTarget s i = none) (hc : cycCases i = [k 0, k 1, k 2]) : Performs i s t :=
  performs_skipIf h (.load r.gpr hl hs hr (fun _ _ => rfl)) (quiet_params (memRead_quiet hr)) hc

end

/-- SLEEP reads SMCR, which has no hook, and may set the sleep flag (46_system.md R261). -/
theorem performs_sleep {s t : State} (h : exec .sleep s = .next t) : Performs .sleep s t := by
  have hm : memRead aSMCR s = .ok (s.rawRead aSMCR, s) :=
    memRead_plain s (by decide) (by rintro (e | e | e | e) <;> exact absurd e (by decide))
  simp only [exec, execSleep, hm, ok_bind, outcome_eq_next, bind_eq_ok, Except.ok.injEq] at h
  obtain ⟨u, hu, rfl⟩ := h
  refine ⟨u, _, .sleep, ?_, List.mem_singleton.mpr rfl, rfl⟩
  unfold enterSleep at hu
  split at hu
  · split at hu
    · cases hu; exact .sleep true rfl
    · exact absurd hu (refuse_ne_ok _ _)
  · cases hu; exact .sleep s.sleeping rfl

/-- A call is a push of the return address and a move of pc. -/
theorem performs_call {i : Instr} {s t : State} {a p : Word} {c : CycCase}
    (h : (pushAddr a s >>= fun u => .ok (u.jump p (s.cyc c))) = .ok t)
    (hi : (∃ k, i = .rcall k) ∨ i = .icall ∨ ∃ k, i = .call k) (hc : cycCases i = [c]) : Performs i s t := by
  obtain ⟨u, hu, e⟩ := bind_eq_ok.mp h
  cases e
  exact ⟨u, p, c, .call hi hu, by simp [hc], rfl⟩

/-! ### All instructions -/

/-- An instruction that answers a next state performs one of the ten effects. -/
theorem performs_of_exec {i : Instr} {s t : State} (h : exec i s = .next t) : Performs i s t := by
  cases i with
  | nop | wdr | brk | rjmp k | ijmp => exact performs_jump h rfl rfl (.head _)
  | jmp k =>
    obtain ⟨w, -, e⟩ := bind_eq_ok.mp (outcome_eq_next.mp h)
    cases e
    exact performs_jump rfl rfl rfl (.head _)
  | brbs f k | brbc f k => exact performs_branchIf h rfl rfl rfl
  | cpse d r | sbrc r b | sbrs r b => exact performs_skipIf_regs h rfl rfl rfl
  | sbic a b | sbis a b =>
    obtain ⟨⟨v, r⟩, hr, hk⟩ := bind_eq_ok.mp (outcome_eq_next.mp h)
    exact performs_read_skipIf hr hk rfl rfl rfl
  | add d r | adc d r | sub d r | sbc d r | subi d k8 | sbci d k8 | neg d =>
    exact performs_writeAlu h rfl rfl rfl rfl (Flags.get_of_not_arith rfl rfl)
  | cp d r | cpc d r | cpi d k8 => exact performs_setFlags h rfl rfl rfl (Flags.get_of_not_arith rfl rfl)
  | and d r | andi d k8 | or d r | ori d k8 | eor d r | inc d | dec d =>
    exact performs_writeAlu h rfl rfl rfl rfl (Flags.get_of_not_logic rfl rfl rfl rfl)
  | com d | lsr d | ror d | asr d => exact performs_writeAlu h rfl rfl rfl rfl (Flags.get_of_not_shift rfl rfl rfl)
  | adiw d k6 | sbiw d k6 => exact performs_writeAluPair h rfl rfl rfl rfl (Flags.get_of_not_shift rfl rfl rfl)
  | mul d r | muls d r | mulsu d r | fmul d r | fmuls d r | fmulsu d r =>
    exact performs_writeAluPair h rfl rfl rfl rfl (Flags.get_of_not_mul _ _ _)
  | bset f | bclr f => exact performs_setFlags h rfl rfl rfl (Flags.get_put_other _ f _)
  | bst d b => exact performs_setFlags h rfl rfl rfl (Flags.get_put_other _ 6 _)
  | swap d | bld d b | mov d r | ldi d k8 => exact performs_setReg h rfl rfl rfl rfl
  | movw d r => exact performs_setPair h rfl rfl rfl rfl
  | lds d a | lddY d q | lddZ d q => exact performs_loadFrom h rfl rfl rfl rfl
  | ldX d | ldXInc d | ldXDec d | ldYInc d | ldYDec d | ldZInc d | ldZDec d => exact performs_loadPtr h rfl rfl rfl rfl
  | sts a r | stdY q r | stdZ q r => exact performs_storeTo h rfl rfl rfl
  | stX r | stXInc r | stXDec r | stYInc r | stYDec r | stZInc r | stZDec r => exact performs_storePtr h rfl rfl rfl rfl
  | lpm | lpmZ d | lpmZInc d => exact performs_loadFlash h rfl rfl rfl rfl
  | ioIn d a =>
    obtain ⟨⟨v, r⟩, hr, e⟩ := bind_eq_ok.mp (outcome_eq_next.mp h)
    cases e
    exact ⟨r.setReg d v, _, .ioIn, .load _ rfl rfl hr (State.regsKept_setReg d v), .head _, rfl⟩
  | ioOut a r =>
    obtain ⟨w, hw, e⟩ := bind_eq_ok.mp (outcome_eq_next.mp h)
    cases e
    exact ⟨w, _, .ioOut, .store w.gpr rfl rfl hw (fun _ _ => rfl), .head _, rfl⟩
  | sbi a b | cbi a b => exact performs_modifyIo h rfl rfl rfl
  | sleep => exact performs_sleep h
  | rcall k => exact performs_call (outcome_eq_next.mp h) (.inl ⟨k, rfl⟩) rfl
  | icall => exact performs_call (outcome_eq_next.mp h) (.inr (.inl rfl)) rfl
  | call k =>
    obtain ⟨w, -, e⟩ := bind_eq_ok.mp (outcome_eq_next.mp h)
    exact performs_call e (.inr (.inr ⟨k, rfl⟩)) rfl
  | ret =>
    obtain ⟨⟨a, u⟩, hp, e⟩ := bind_eq_ok.mp (outcome_eq_next.mp h)
    cases e
    exact ⟨u, a, .ret, .ret rfl hp, .head _, rfl⟩
  | reti =>
    obtain ⟨u, hp, e⟩ := bind_eq_ok.mp (outcome_eq_next.mp h)
    cases e
    exact ⟨u, u.pc, .reti, .reti rfl hp, .head _, rfl⟩
  | push r =>
    obtain ⟨u, hp, e⟩ := bind_eq_ok.mp (outcome_eq_next.mp h)
    cases e
    exact ⟨u, _, .push, .push rfl hp, .head _, rfl⟩
  | pop d =>
    obtain ⟨⟨v, u⟩, hp, e⟩ := bind_eq_ok.mp (outcome_eq_next.mp h)
    cases e
    exact ⟨u.setReg d v, _, .pop, .pop rfl hp, .head _, rfl⟩

end Sys2Proof.Machine
end

/-! PROOF. Every step keeps the invariant (O12), and what instructions leave of the system's state (O15) and of the registers and
SP (O17), each read off the effect an instruction has. -/

section
namespace Sys2Proof.Machine

section
variable {i : Instr} {s u : State}

/-! ### The frame of an effect -/

theorem memRead_frame {a : Nat} {v : Byte} {r : State} (hr : memRead a s = .ok (v, r)) : storeFrame s r :=
  quiet_storeFrame (memRead_quiet hr) (refresh_memo (memRead_eq_ok.mp hr).2.1)

/-- Every effect has the frame of a store, but for the sleep flag of SLEEP and RETI's return. -/
theorem Effect.frame (he : Effect i s u) :
    storeFrame s u ∨ (i = .sleep ∧ ∃ b, u = { s with sleeping := b })
      ∨ (i = .reti ∧ returnFromInterrupt s = .ok u) := by
  cases he with
  | regs g f => exact .inl rfl
  | load g _ _ hr => exact .inl (storeFrame_trans (memRead_frame hr) rfl)
  | store g _ _ hw => exact .inl (storeFrame_trans (memWrite_frame hw) rfl)
  | modify _ _ hr hw => exact .inl (storeFrame_trans (memRead_frame hr) (memWrite_frame hw))
  | sleep b hi => exact .inr (.inl ⟨hi, b, rfl⟩)
  | call _ hp => obtain ⟨-, -, rfl⟩ := pushAddr_eq_ok.mp hp; exact .inl rfl
  | ret _ hp => obtain ⟨-, -, -, rfl⟩ := popAddr_eq_ok.mp hp; exact .inl rfl
  | reti hi hp => exact .inr (.inr ⟨hi, hp⟩)
  | push _ hp => obtain ⟨-, rfl⟩ := pushByte_eq_ok.mp hp; exact .inl rfl
  | pop _ hp => obtain ⟨-, -, rfl⟩ := popByte_eq_ok.mp hp; exact .inl rfl

/-- What no effect changes, the cycle counter among it (10_state.md R30, R33, R35, 20_memory.md R61). -/
theorem Effect.fixed (he : Effect i s u) :
    u.pending = s.pending ∧ u.hasProgram = s.hasProgram ∧ u.t3Triggered = s.t3Triggered ∧ u.params = s.params
      ∧ u.flash = s.flash ∧ u.cycles = s.cycles := by
  rcases he.frame with h | ⟨-, b, rfl⟩ | ⟨-, hp⟩
  · exact ⟨storeFrame_pending h, storeFrame_hasProgram h, storeFrame_t3Triggered h, storeFrame_params h,
      storeFrame_flash h, storeFrame_cycles h⟩
  · exact ⟨rfl, rfl, rfl, rfl, rfl, rfl⟩
  · obtain ⟨-, -, rfl⟩ := returnFromInterrupt_eq_ok.mp hp
    exact ⟨rfl, rfl, rfl, rfl, rfl, rfl⟩

/-- The sleep flag is SLEEP's, the re-entrancy flag RETI's (R29, R31). -/
theorem Effect.modes (he : Effect i s u) :
    (i ≠ .sleep → u.sleeping = s.sleeping) ∧ (i ≠ .reti → u.insideInterrupt = s.insideInterrupt) := by
  rcases he.frame with h | ⟨hi, b, rfl⟩ | ⟨hi, hp⟩
  · exact ⟨fun _ => storeFrame_sleeping h, fun _ => storeFrame_insideInterrupt h⟩
  · exact ⟨fun k => absurd hi k, fun _ => rfl⟩
  · obtain ⟨-, -, rfl⟩ := returnFromInterrupt_eq_ok.mp hp
    exact ⟨fun _ => rfl, fun k => absurd hi k⟩

/-! ### The invariant -/

theorem Effect.inv (he : Effect i s u) (h : s.inv = true) : u.inv = true := by
  cases he with
  | regs g f => exact h
  | load g _ _ hr => exact (memRead_inv hr h :)
  | store g _ _ hw => exact (memWrite_inv hw h :)
  | modify _ _ hr hw => exact memWrite_inv hw (memRead_inv hr h)
  | sleep b => exact h
  | call _ hp => exact pushAddr_inv hp h
  | ret _ hp => obtain ⟨-, -, -, rfl⟩ := popAddr_eq_ok.mp hp; exact h
  | reti _ hp => obtain ⟨-, -, rfl⟩ := returnFromInterrupt_eq_ok.mp hp; exact h
  | push _ hp => obtain ⟨hin, rfl⟩ := pushByte_eq_ok.mp hp; exact State.inv_setByte_inStack _ h hin
  | pop _ hp => obtain ⟨-, -, rfl⟩ := popByte_eq_ok.mp hp; exact h

theorem exec_inv {t : State} (he : exec i s = .next t) (h : s.inv = true) : t.inv = true := by
  obtain ⟨u, p, c, hu, -, rfl⟩ := performs_of_exec he
  exact State.inv_later (hu.inv h) (Nat.le_add_right _ _)

theorem stepBody_inv {t : State} (hb : stepBody s = .next t) (h : s.inv = true) : t.inv = true := by
  rcases stepBody_eq_next.mp hb with ⟨-, rfl⟩ | ⟨-, i, -, he⟩
  · exact State.inv_later h (Nat.le_succ _)
  · exact exec_inv he h

/-! ### Timestamps, free values and the host's log -/

/-- A load may move timer0's baseline, at TCNT0; a store its own register's timestamp; nothing else moves one. -/
theorem Effect.stamps (he : Effect i s u) :
    (∃ a, loadTarget s i = some a ∧ u.last = { s.last with t0 := u.last.t0 } ∧ (a ≠ aTCNT0 → u.last = s.last))
      ∨ (∃ a, storeTarget s i = some a ∧ Stamped a s.cycles s.last u.last) ∨ u.last = s.last := by
  cases he with
  | regs g f => exact .inr (.inr rfl)
  | load g hl _ hr =>
    obtain ⟨-, hr, -⟩ := memRead_eq_ok.mp hr
    have hkeep := refresh_last_eq hr
    exact .inl ⟨_, hl, (refresh_last hr).1, hkeep⟩
  | store g _ hs hw =>
    have hst := memWrite_stamped hw
    exact .inr (.inl ⟨_, hs, hst⟩)
  | modify _ hs hr hw =>
    have hw' := memWrite_stamped hw
    rw [quiet_cycles (memRead_quiet hr)] at hw'
    exact .inr (.inl ⟨_, hs, (refresh_stamped (memRead_eq_ok.mp hr).2.1).trans hw'⟩)
  | sleep b => exact .inr (.inr rfl)
  | call _ hp => obtain ⟨-, -, rfl⟩ := pushAddr_eq_ok.mp hp; exact .inr (.inr rfl)
  | ret _ hp => obtain ⟨-, -, -, rfl⟩ := popAddr_eq_ok.mp hp; exact .inr (.inr rfl)
  | reti _ hp => obtain ⟨-, -, rfl⟩ := returnFromInterrupt_eq_ok.mp hp; exact .inr (.inr rfl)
  | push _ hp => obtain ⟨-, rfl⟩ := pushByte_eq_ok.mp hp; exact .inr (.inr rfl)
  | pop _ hp => obtain ⟨-, -, rfl⟩ := popByte_eq_ok.mp hp; exact .inr (.inr rfl)

/-- No timestamp moves but by an access of its own register. -/
theorem Effect.last (he : Effect i s u) :
    u.last.t3 = s.last.t3 ∧ u.last.t4 = s.last.t4
      ∧ (storeTarget s i ≠ some aEECR → u.last.eewe = s.last.eewe)
      ∧ (storeTarget s i ≠ some aPLLCSR → u.last.pll = s.last.pll)
      ∧ (storeTarget s i ≠ some aADCSRA → u.last.adc = s.last.adc)
      ∧ (storeTarget s i ≠ some aTCNT0 → storeTarget s i ≠ some aTCCR0B → loadTarget s i ≠ some aTCNT0 →
          u.last.t0 = s.last.t0) := by
  rcases he.stamps with ⟨a, hl, e, h0⟩ | ⟨a, hs, h⟩ | e
  · rw [e]
    refine ⟨rfl, rfl, fun _ => rfl, fun _ => rfl, fun _ => rfl, fun _ _ k => ?_⟩
    rw [h0 (by rintro rfl; exact k hl)]
  · have other : ∀ {b}, storeTarget s i ≠ some b → a ≠ b := by rintro b k rfl; exact k hs
    exact ⟨h.t3, h.t4, fun k => h.eewe.resolve_right fun c => other k c.1, fun k => h.pll.resolve_right fun c => other k c.1,
      fun k => h.adc.resolve_right fun c => other k c.1,
      fun k0 k1 _ => h.t0.resolve_right fun c => c.1.elim (other k0) (other k1)⟩
  · rw [e]
    exact ⟨rfl, rfl, fun _ => rfl, fun _ => rfl, fun _ => rfl, fun _ _ _ => rfl⟩

/-- The instruction makes no call to the host: it stores to neither SPDR nor a port and, where the debug hooks are attached,
neither calls nor returns nor stores to a half of SP (20_memory.md R77, R81, 60_exceptions.md R305). -/
def callsNoHost (i : Instr) (s : State) : Prop :=
  (∀ a, storeTarget s i = some a → a ≠ aSPDR ∧ portAt a = none)
    ∧ (s.params.debugHooks = true → callsOrReturns i = false ∧ storeTarget s i ≠ some aSPL ∧ storeTarget s i ≠ some aSPH)

/-- A notification of the debugger by a call or a return is not logged where the hooks are not attached. -/
theorem notify_hostLog_of_callsNoHost (x : State) (e : HostEvent) (hi : callsOrReturns i = true) (h : callsNoHost i s)
    (hp : x.params = s.params) : (x.notify e).hostLog = x.hostLog := by
  have hd : ¬ x.params.debugHooks = true := fun k => by
    rw [hp] at k
    exact absurd (h.2 k).1 (by rw [hi]; decide)
  rw [State.notify_hostLog, if_neg hd]

theorem callsOrReturns_of_call (hi : (∃ k, i = .rcall k) ∨ i = .icall ∨ ∃ k, i = .call k) : callsOrReturns i = true := by
  rcases hi with ⟨k, rfl⟩ | rfl | ⟨k, rfl⟩ <;> rfl

theorem memWrite_host_of_target {a : Nat} {v : Byte} {r w : State} (hs : storeTarget s i = some a)
    (hw : memWrite a v r = .ok w) (hp : r.params = s.params) :
    (storeTarget s i ≠ some aSPDR → w.draws = r.draws) ∧ (callsNoHost i s → w.hostLog = r.hostLog) := by
  refine ⟨fun k => (memWrite_host hw (by rintro rfl; exact k hs)).1, fun k => ?_⟩
  obtain ⟨ht, hd⟩ := k
  obtain ⟨h0, h1⟩ := ht a hs
  rw [hs, ← hp] at hd
  exact (memWrite_host hw h0).2 h1 fun k => ⟨fun e => (hd k).2.1 (congrArg some e), fun e => (hd k).2.2 (congrArg some e)⟩

/-- Free values are drawn by a store to SPDR alone, and the log grows only by an instruction that calls the host. -/
theorem Effect.host (he : Effect i s u) :
    (storeTarget s i ≠ some aSPDR → u.draws = s.draws) ∧ (callsNoHost i s → u.hostLog = s.hostLog) := by
  cases he with
  | regs g f => exact ⟨fun _ => rfl, fun _ => rfl⟩
  | load g _ _ hr =>
    have hd := quiet_draws (memRead_quiet hr)
    have hl := quiet_hostLog (memRead_quiet hr)
    exact ⟨fun _ => hd, fun _ => hl⟩
  | store g _ hs hw => exact (memWrite_host_of_target hs hw rfl :)
  | modify _ hs hr hw =>
    have hq := memRead_quiet hr
    obtain ⟨hd, hl⟩ := memWrite_host_of_target hs hw (quiet_params hq)
    exact ⟨fun k => (hd k).trans (quiet_draws hq), fun k => (hl k).trans (quiet_hostLog hq)⟩
  | sleep b => exact ⟨fun _ => rfl, fun _ => rfl⟩
  | call hi hp =>
    obtain ⟨-, -, rfl⟩ := pushAddr_eq_ok.mp hp
    exact ⟨fun _ => rfl, fun k => notify_hostLog_of_callsNoHost _ _ (callsOrReturns_of_call hi) k rfl⟩
  | ret hi hp =>
    obtain ⟨-, -, -, rfl⟩ := popAddr_eq_ok.mp hp
    exact ⟨fun _ => rfl, fun k => notify_hostLog_of_callsNoHost _ _ (by rw [hi]; rfl) k rfl⟩
  | reti hi hp =>
    obtain ⟨-, -, rfl⟩ := returnFromInterrupt_eq_ok.mp hp
    exact ⟨fun _ => rfl, fun k => notify_hostLog_of_callsNoHost (s.setSp (s.sp + 2)) .callStackPop (by rw [hi]; rfl) k rfl⟩
  | push _ hp => obtain ⟨-, rfl⟩ := pushByte_eq_ok.mp hp; exact ⟨fun _ => rfl, fun _ => rfl⟩
  | pop _ hp => obtain ⟨-, -, rfl⟩ := popByte_eq_ok.mp hp; exact ⟨fun _ => rfl, fun _ => rfl⟩

/-! ### Registers and SP -/

theorem not_mem_regsWritten {r : Reg} :
    r ∉ regsWritten i s ↔ r ∉ namedWrites i ∧ ∀ a, storeTarget s i = some a → r ∉ regAt a := by
  unfold regsWritten
  cases storeTarget s i <;> simp

/-- Only registers the instruction names, or reaches as a data address, are written (70_reset_and_hazards.md R359). -/
theorem Effect.keepsRegs (he : Effect i s u) : regsKept (regsWritten i s) s u := by
  intro r hr
  obtain ⟨hn, ha⟩ := not_mem_regsWritten.mp hr
  cases he with
  | regs g f _ _ hg => exact hg r hn
  | load g _ _ hr hg => exact (hg r hn).trans (quiet_reg (memRead_quiet hr) r)
  | store g _ hs hw hg => exact (hg r hn).trans ((memWrite_core hw).1 r (ha _ hs))
  | modify _ hs hr hw => exact ((memWrite_core hw).1 r (ha _ hs)).trans (quiet_reg (memRead_quiet hr) r)
  | sleep b => rfl
  | call _ hp => obtain ⟨-, -, rfl⟩ := pushAddr_eq_ok.mp hp; rfl
  | ret _ hp => obtain ⟨-, -, -, rfl⟩ := popAddr_eq_ok.mp hp; rfl
  | reti _ hp => obtain ⟨-, -, rfl⟩ := returnFromInterrupt_eq_ok.mp hp; rfl
  | push _ hp => obtain ⟨-, rfl⟩ := pushByte_eq_ok.mp hp; rfl
  | pop hi hp =>
    obtain ⟨-, -, rfl⟩ := popByte_eq_ok.mp hp
    subst hi
    exact State.regsKept_setReg _ _ r hn

/-- SP is the stack operations' and its own two bytes' (10_state.md R27). -/
theorem Effect.sp (he : Effect i s u) (hm : ¬ movesSp i s) : u.sp = s.sp := by
  simp only [movesSp, not_or] at hm
  obtain ⟨hpush, hpop, hrcall, hicall, hcall, hret, hreti, hspl, hsph⟩ := hm
  have store : ∀ {a v} {r w : State}, storeTarget s i = some a → memWrite a v r = .ok w → w.sp = r.sp := by
    intro a v r w hs hw
    exact (memWrite_core hw).2.2 (by rintro rfl; exact hspl hs) (by rintro rfl; exact hsph hs)
  cases he with
  | regs g f => rfl
  | load g _ _ hr => exact (quiet_sp (memRead_quiet hr) :)
  | store g _ hs hw => exact (store hs hw :)
  | modify _ hs hr hw => exact (store hs hw).trans (quiet_sp (memRead_quiet hr))
  | sleep b => rfl
  | call hi _ => exact (hi.elim hrcall (·.elim hicall hcall)).elim
  | ret hi _ => exact absurd hi hret
  | reti hi _ => exact absurd hi hreti
  | push hi _ => exact absurd ⟨_, hi⟩ hpush
  | pop hi _ => exact absurd ⟨_, hi⟩ hpop

end

/-! ### The obligations -/

/-- Settles O12: the body of a step keeps the invariant, by the effect of its instruction, and so does the tail. -/
theorem invKeptByStep : Obligations.InvKeptByStep := by
  intro s t h hstep
  obtain ⟨-, u, hu, ht⟩ := step_eq_next.mp hstep
  exact afterBody_inv ht (stepBody_inv hu h)

/-- Settles O15: the effect's frame, modes, timestamps and calls to the host; the move of pc touches none of them. -/
theorem systemFrame : Obligations.SystemFrame := by
  intro i s t h
  obtain ⟨u, p, c, he, -, rfl⟩ := performs_of_exec h
  obtain ⟨hpend, hprog, hmemo, hpar, hflash, -⟩ := he.fixed
  obtain ⟨hsleep, hinside⟩ := he.modes
  obtain ⟨h3, h4, heewe, hpll, hadc, h0⟩ := he.last
  obtain ⟨hdraws, hlog⟩ := he.host
  exact ⟨hpend, hprog, hmemo, hpar, fun b => congrArg (Memory.read · b) hflash, h3, h4, hsleep, hinside, heewe, hpll, hadc, h0,
    hdraws, fun k0 k1 => hlog ⟨k0, k1⟩⟩

/-- Settles O17: registers and SP are the effect's; the move of pc touches neither. -/
theorem registerFrame : Obligations.RegisterFrame := by
  intro i s t h
  obtain ⟨u, p, c, he, -, rfl⟩ := performs_of_exec h
  exact ⟨he.keepsRegs, he.sp⟩

end Sys2Proof.Machine
end

/-! PROOF. The bytes of the data space without a reaction beyond the store itself: the registers and the plain bytes (O50), SREG
and the halves of SP (O51) (spec/20_memory.md R65 to R72, spec/10_state.md R20, R25 to R27). -/

section
namespace Sys2Proof.Machine

/-! ### Plain bytes -/

/-- An address the access points pass straight to the byte's home: no refresh, no reaction (R68). -/
structure Unhooked (a : Nat) : Prop where
  lt : a < Config.dataSize
  read : ¬ hookedRead a
  spdr : a ≠ aSPDR
  tccr0b : a ≠ aTCCR0B
  port : portAt a = none
  spl : a ≠ aSPL
  sph : a ≠ aSPH

theorem Unhooked.memRead {a : Nat} (h : Unhooked a) (s : State) : memRead a s = .ok (s.rawRead a, s) :=
  memRead_plain s h.lt h.read

theorem Unhooked.memWrite {a : Nat} (h : Unhooked a) (v : Byte) (s : State) : memWrite a v s = .ok (s.rawWrite a v) :=
  memWrite_plain v s h.lt h.read h.spdr h.tccr0b h.port h.spl h.sph

theorem unhooked_reg (r : Reg) : Unhooked r.val := by
  have haddr : ∀ r : Reg, r.val < Config.dataSize ∧ r.val ≠ aEECR ∧ r.val ≠ aPLLCSR ∧ r.val ≠ aADCSRA ∧ r.val ≠ aTCNT0
      ∧ r.val ≠ aSPDR ∧ r.val ≠ aTCCR0B ∧ portAt r.val = none ∧ r.val ≠ aSPL ∧ r.val ≠ aSPH := by decide
  obtain ⟨hlt, h0, h1, h2, h3, h4, h5, h6, h7, h8⟩ := haddr r
  exact ⟨hlt, by rintro (e | e | e | e) <;> contradiction, h4, h5, h6, h7, h8⟩

theorem plainByte_spec {a : Nat} (h : plainByte a = true) : plainHome a ∧ Unhooked a := by
  simp only [plainByte, Bool.and_eq_true, decide_eq_true_eq, Option.isNone_iff_eq_none, Bool.not_eq_true',
    List.contains_eq_mem, decide_eq_false_iff_not, List.mem_cons, List.not_mem_nil, or_false, not_or] at h
  obtain ⟨⟨⟨hlo, hhi⟩, hspl, hsph, hsreg, heecr, hpll, hspdr, htccr, htcnt, hadc⟩, hport⟩ := h
  exact ⟨⟨hlo, hspl, hsph, hsreg⟩, hhi, by rintro (e | e | e | e) <;> contradiction, hspdr, htccr, hport, hspl, hsph⟩

/-- A state compared with itself: nothing of the scheduler, the peripherals or the log differs. -/
theorem systemKept_refl (s : State) : systemKept s s := ⟨⟨rfl, rfl, rfl, rfl, rfl, rfl, rfl, rfl⟩, rfl⟩

theorem memKept_refl (s : State) : memKept s s := ⟨fun _ => rfl, fun _ => rfl, fun _ => rfl⟩

theorem bytesKept_setByte (s : State) (a : Nat) (v : Byte) : bytesKept [a] s (s.setByte a v) :=
  ⟨fun _ hb => State.byteAt_setByte_other s v (by simpa using hb), fun _ => rfl, fun _ => rfl⟩

/-- Settles O50: the access points give and change the byte's one home, a register or an entry of the data list. -/
theorem plainBytes : Obligations.PlainBytes := by
  refine ⟨fun r v s => ⟨?_, s.setReg r v, ?_, s.reg_setReg_same r v, ?_, rfl, rfl, rfl⟩, fun a v s ha => ?_⟩
  · rw [(unhooked_reg r).memRead, s.rawRead_reg r.isLt]
  · rw [(unhooked_reg r).memWrite, s.rawWrite_reg v r.isLt]
  · exact ⟨State.regsKept_setReg r v, rfl, memKept_refl s, systemKept_refl s⟩
  · obtain ⟨hhome, hun⟩ := plainByte_spec ha
    refine ⟨by rw [hun.memRead, s.rawRead_plain hhome], s.setByte a v, by rw [hun.memWrite, s.rawWrite_plain v hhome], ?_,
      bytesKept_setByte s a v, fun _ _ => rfl, rfl, rfl, rfl, rfl, systemKept_refl s⟩
    rw [hun.memRead, State.rawRead_plain _ hhome, State.byteAt_setByte_same]

/-! ### SREG -/

/-- Bit `k` of the SREG byte is flag `k` (R25). -/
theorem Flags.getLsbD_toByte (f : Flags) (k : BitNo) : f.toByte.getLsbD k.val = f.get k := by
  unfold Flags.toByte
  iterate 7 rw [BitVec.getLsbD_append]
  fin_cases k <;> simp [Flags.get]

theorem get_flagsOfByte (v : Byte) (k : BitNo) : (flagsOfByte v).get k = v.getLsbD k.val := by
  fin_cases k <;> rfl

/-- A byte is determined by its eight bits, so the flags taken from it give it back. -/
theorem toByte_flagsOfByte (v : Byte) : (flagsOfByte v).toByte = v := by
  apply BitVec.eq_of_getLsbD_eq
  intro k hk
  rw [Flags.getLsbD_toByte _ ⟨k, hk⟩, get_flagsOfByte]

theorem unhooked_sreg : Unhooked aSREG :=
  ⟨by decide, by rintro (e | e | e | e) <;> exact absurd e (by decide), by decide, by decide, by decide, by decide, by decide⟩

theorem memRead_sreg (s : State) : memRead aSREG s = .ok (s.flags.toByte, s) := unhooked_sreg.memRead s

theorem memWrite_sreg (v : Byte) (s : State) : memWrite aSREG v s = .ok (s.setFlags (flagsOfByte v)) :=
  unhooked_sreg.memWrite v s

/-! ### The halves of SP -/

theorem memRead_spl (s : State) : memRead aSPL s = .ok (lo8 s.sp, s) :=
  memRead_plain s (by decide) (by rintro (e | e | e | e) <;> exact absurd e (by decide))

theorem memRead_sph (s : State) : memRead aSPH s = .ok (hi8 s.sp, s) :=
  memRead_plain s (by decide) (by rintro (e | e | e | e) <;> exact absurd e (by decide))

/-- A write of SP's low half takes effect at once and notifies the call-stack hook (R27). -/
theorem memWrite_spl (v : Byte) (s : State) :
    memWrite aSPL v s = .ok ((s.setSp (word16 (hi8 s.sp) v)).notify .stackPointerWrite) := rfl

theorem memWrite_sph (v : Byte) (s : State) :
    memWrite aSPH v s = .ok ((s.setSp (word16 v (lo8 s.sp))).notify .stackPointerWrite) := rfl

/-- Settles O51: what the four accesses answer, and that flags and byte, SP and its halves determine each other. -/
theorem sregAndSpBytes : Obligations.SregAndSpBytes := by
  refine ⟨fun s => ⟨_, memRead_sreg s, s.flags.getLsbD_toByte⟩, fun v s => ?_, fun s => ?_, fun l h s => ?_⟩
  · refine ⟨_, memWrite_sreg v s, get_flagsOfByte v, ⟨fun _ _ => rfl, rfl, memKept_refl s, systemKept_refl s⟩, rfl, rfl,
      (memRead_sreg _).trans ?_⟩
    rw [State.setFlags_flags, toByte_flagsOfByte]
  · refine ⟨_, _, memRead_spl s, memRead_sph s, ?_⟩
    rw [← toNat_word16, word16_hi8_lo8]
  · refine ⟨_, _, memWrite_spl l s, ?_, rfl, memWrite_sph h _, ?_, rfl⟩
    · rw [State.notify_sp, State.setSp_sp, toNat_word16, toNat_hi8]
    · rw [State.notify_sp, State.setSp_sp, toNat_word16, State.notify_sp, State.setSp_sp, lo8_word16]

end Sys2Proof.Machine
end

/-! PROOF. What an instruction leaves of the data space and the EEPROM (O18), and what a step leaves of flash and the parameters
(O13), read off the effect the instruction has (spec/20_memory.md R61, R64, R66, R67, R91, R93). -/

section
namespace Sys2Proof.Machine

/-! ### Data bytes and EEPROM -/

section
variable {i : Instr} {s u : State}

theorem not_mem_bytesTouched {a : Nat} :
    a ∉ bytesTouched i s ↔ a ∉ stackTargets s i ∧ (∀ b, loadTarget s i = some b → a ∉ refreshBytes b)
      ∧ ∀ b, storeTarget s i = some b → a ∉ writeBytesAt b := by
  unfold bytesTouched
  cases loadTarget s i <;> cases storeTarget s i <;> simp

/-- The bytes a refresh may change are the hooked one it is run for, and TIFR0 with TCNT0. -/
theorem mem_refreshBytes {a b : Nat} (h : b ∈ refreshBytes a) : (b = a ∧ hookedRead a) ∨ b = aTIFR0 := by
  unfold refreshBytes at h
  unfold hookedRead
  split at h
  · next e => simpa [e] using h
  · split at h
    · next e =>
      rw [List.mem_singleton] at h
      exact .inl ⟨h, by tauto⟩
    · exact absurd h List.not_mem_nil

theorem not_mem_refreshBytes {a b : Nat} (h : ¬ hookedRead b) (h1 : b ≠ aTIFR0) : b ∉ refreshBytes a := fun hb =>
  (mem_refreshBytes hb).elim (fun ⟨e, k⟩ => h (e ▸ k)) h1

theorem memRead_byteAt {a : Nat} {v : Byte} {r : State} (hr : memRead a s = .ok (v, r)) {b : Nat}
    (hb : b ∉ refreshBytes a) : r.byteAt b = s.byteAt b :=
  refresh_byteAt (memRead_eq_ok.mp hr).2.1 hb

/-- No read changes the EEPROM's address. -/
theorem memRead_eear {a : Nat} {v : Byte} {r : State} (hr : memRead a s = .ok (v, r)) : r.eear = s.eear := by
  have hh : aEEARH ∉ refreshBytes a := not_mem_refreshBytes (by unfold hookedRead; decide) (by decide)
  have hl : aEEARL ∉ refreshBytes a := not_mem_refreshBytes (by unfold hookedRead; decide) (by decide)
  rw [State.eear, State.eear, memRead_byteAt hr hh, memRead_byteAt hr hl]

/-- A push writes the two bytes at and below SP (44_call_return_stack.md R195). -/
theorem pushAddr_byteAt {w : Word} (hp : pushAddr w s = .ok u) {a : Nat} (ha : a ∉ [s.sp.toNat, (s.sp - 1).toNat]) :
    u.byteAt a = s.byteAt a := by
  simp only [List.mem_cons, List.not_mem_nil, or_false, not_or] at ha
  obtain ⟨h0, h1⟩ := ha
  obtain ⟨-, -, rfl⟩ := pushAddr_eq_ok.mp hp
  rw [State.notify_byteAt, State.setSp_byteAt, State.byteAt_setByte_other _ _ h1, State.byteAt_setByte_other _ _ h0]

/-- Only bytes the instruction's addressing reaches are changed. -/
theorem Effect.keepsBytes (he : Effect i s u) {a : Nat} (ha : a ∉ bytesTouched i s) : u.byteAt a = s.byteAt a := by
  obtain ⟨hstack, hload, hstore⟩ := not_mem_bytesTouched.mp ha
  cases he with
  | regs g f => rfl
  | load g hl _ hr => exact (memRead_byteAt hr (hload _ hl) :)
  | store g _ hs hw => exact (memWrite_byteAt hw (hstore _ hs) :)
  | modify hl hs hr hw => exact (memWrite_byteAt hw (hstore _ hs)).trans (memRead_byteAt hr (hload _ hl))
  | sleep b => rfl
  | call hi hp =>
    refine pushAddr_byteAt hp ?_
    rcases hi with ⟨k, rfl⟩ | rfl | ⟨k, rfl⟩ <;> exact hstack
  | ret _ hp => obtain ⟨-, -, -, rfl⟩ := popAddr_eq_ok.mp hp; rfl
  | reti _ hp => obtain ⟨-, -, rfl⟩ := returnFromInterrupt_eq_ok.mp hp; rfl
  | push hi hp =>
    obtain ⟨-, rfl⟩ := pushByte_eq_ok.mp hp
    subst hi
    exact State.byteAt_setByte_other s _ (fun e => hstack (List.mem_singleton.mpr e))
  | pop _ hp => obtain ⟨-, -, rfl⟩ := popByte_eq_ok.mp hp; rfl

/-- A store that answers keeps every EEPROM byte, but at EECR the addressed one. -/
theorem memWrite_eeprom_read {a b : Nat} {v : Byte} (hw : memWrite a v s = .ok u) (h : a ≠ aEECR ∨ b ≠ s.eear) :
    u.eeprom.read b = s.eeprom.read b := by
  rcases memWrite_eeprom hw with e | ⟨ha, -, x, e⟩
  · rw [e]
  · rw [e, Memory.read_write_other _ _ (h.resolve_left (· ha))]

/-- Only the addressed EEPROM byte is changed, and that by a store to EECR (R64). -/
theorem Effect.keepsEeprom (he : Effect i s u) {a : Nat} (ha : storeTarget s i ≠ some aEECR ∨ a ≠ s.eear) :
    u.eeprom.read a = s.eeprom.read a := by
  have target : ∀ {b}, storeTarget s i = some b → b ≠ aEECR ∨ a ≠ s.eear := fun hs =>
    ha.imp_left fun k e => k (hs.trans (congrArg some e))
  cases he with
  | regs g f => rfl
  | load g _ _ hr => exact (congrArg (Memory.read · a) (quiet_eeprom (memRead_quiet hr)) :)
  | store g _ hs hw => exact (memWrite_eeprom_read hw (target hs) :)
  | modify _ hs hr hw =>
    rw [memWrite_eeprom_read hw (by rw [memRead_eear hr]; exact target hs), quiet_eeprom (memRead_quiet hr)]
  | sleep b => rfl
  | call _ hp => obtain ⟨-, -, rfl⟩ := pushAddr_eq_ok.mp hp; rfl
  | ret _ hp => obtain ⟨-, -, -, rfl⟩ := popAddr_eq_ok.mp hp; rfl
  | reti _ hp => obtain ⟨-, -, rfl⟩ := returnFromInterrupt_eq_ok.mp hp; rfl
  | push _ hp => obtain ⟨-, rfl⟩ := pushByte_eq_ok.mp hp; rfl
  | pop _ hp => obtain ⟨-, -, rfl⟩ := popByte_eq_ok.mp hp; rfl

end

/-- Settles O18: bytes and EEPROM are the effect's; the move of pc touches neither. -/
theorem memoryFrame : Obligations.MemoryFrame := by
  intro i s t h
  obtain ⟨u, p, c, he, -, rfl⟩ := performs_of_exec h
  exact ⟨fun _ => he.keepsBytes, fun _ => he.keepsEeprom⟩

/-! ### Flash and the parameters -/

/-- Flash, the parameters and the loaded-program flag as they were. -/
abbrev programKept (s t : State) : Prop := t.flash = s.flash ∧ t.params = s.params ∧ t.hasProgram = s.hasProgram

theorem programKept.trans {s t u : State} (h : programKept s t) (k : programKept t u) : programKept s u :=
  ⟨k.1.trans h.1, k.2.1.trans h.2.1, k.2.2.trans h.2.2⟩

theorem stepBody_programKept {s t : State} (h : stepBody s = .next t) : programKept s t := by
  rcases stepBody_eq_next.mp h with ⟨-, rfl⟩ | ⟨-, i, -, hx⟩
  · exact ⟨rfl, rfl, rfl⟩
  · obtain ⟨u, p, c, he, -, rfl⟩ := performs_of_exec hx
    obtain ⟨-, hprog, -, hpar, hflash, -⟩ := he.fixed
    exact ⟨hflash, hpar, hprog⟩

theorem takeInterrupt_programKept {n : Fin 43} {s t : State} (h : takeInterrupt n s = .ok t) : programKept s t := by
  obtain ⟨-, -, u, hu, rfl⟩ := takeInterrupt_eq_ok.mp h
  rcases clearSourceFlag_eq n _ with e | ⟨src, -, -, e⟩ <;> rw [hu, e] <;> exact ⟨rfl, rfl, rfl⟩

theorem afterBody_programKept {s v : State} (h : afterBody s = .ok v) : programKept s v := by
  obtain ⟨t, ht, hd⟩ := afterBody_eq_ok.mp h
  have hq := catchUpAll_quiet ht
  have hcatch : programKept s t := ⟨quiet_flash hq, quiet_params hq, quiet_hasProgram hq⟩
  have hrec : programKept s (recognise t) := by rw [recognise_eq]; exact hcatch
  rcases dispatch_eq_ok.mp hd with ⟨-, rfl⟩ | ⟨-, n, -, hi⟩
  · exact hrec
  · exact hrec.trans (takeInterrupt_programKept hi)

/-- Settles O13: the body of a step and its tail both keep the program, and a step is enabled by a loaded one. -/
theorem flashNeverChanges : Obligations.FlashNeverChanges := by
  intro s t h
  obtain ⟨hprog, u, hu, ht⟩ := step_eq_next.mp h
  obtain ⟨hflash, hparams, hkept⟩ := (stepBody_programKept hu).trans (afterBody_programKept ht)
  exact ⟨hflash, hparams, hkept.trans hprog⟩

end Sys2Proof.Machine
end

/-! PROOF. At one cycle count a refresh leaves nothing more to refresh, whatever is read after it, so that reads and full
resynchronisations repeat without effect (O55; spec/20_memory.md R69, R85). -/

section
namespace Sys2Proof.Machine

/-! ### Where nothing is due -/

/-- EEMPE's window has passed (R73). -/
def eecrDue (s : State) : Bool := s.ioBit aEECR 2 && decide (s.params.eepromWeCycles ≤ s.cycles - s.last.eewe)

/-- The PLL has been enabled long enough, and PLOCK does not show it (R75). -/
def pllcsrDue (s : State) : Bool :=
  s.ioBit aPLLCSR 1 && !s.ioBit aPLLCSR 0 && decide (s.params.pllLockCycles ≤ s.cycles - s.last.pll)

/-- The conversion time has passed (R79). -/
def adcsraDue (s : State) : Bool := s.ioBit aADCSRA 6 && decide (s.params.adcConvCycles ≤ s.cycles - s.last.adc)

/-- Timer0's baseline is the present, where it is stopped, or less than a tick ago (60_exceptions.md R312). -/
def timer0Current (s : State) : Prop :=
  ∃ d, prescale (clockSelect (s.byteAt aTCCR0B)) = some d
    ∧ if d = 0 then s.last.t0 = s.cycles else (s.cycles - s.last.t0) / d = 0

/-- The hook of a read at `a` has nothing to do. -/
structure Settled (a : Nat) (s : State) : Prop where
  eecr : a = aEECR → eecrDue s = false
  pllcsr : a = aPLLCSR → pllcsrDue s = false
  adcsra : a = aADCSRA → adcsraDue s = false
  tcnt0 : a = aTCNT0 → timer0Current s

theorem advance0_of_current {d : Nat} {s : State}
    (h : if d = 0 then s.last.t0 = s.cycles else (s.cycles - s.last.t0) / d = 0) : advance0 d s.cycles s = s := by
  split at h
  · next hd => rw [advance0, if_pos hd, ← h]; rfl
  · next hd => rw [advance0, if_neg hd]; exact if_pos h

/-- Where nothing is due a refresh changes nothing. -/
theorem Settled.refresh_self {a : Nat} {s : State} (h : Settled a s) : refresh a s = .ok s := by
  by_cases ha : hookedRead a
  · rcases ha with rfl | rfl | rfl | rfl
    · exact congrArg Except.ok (if_neg (Bool.eq_false_iff.mp (h.eecr rfl)))
    · exact congrArg Except.ok (if_neg (Bool.eq_false_iff.mp (h.pllcsr rfl)))
    · exact congrArg Except.ok (if_neg (Bool.eq_false_iff.mp (h.adcsra rfl)))
    · obtain ⟨d, hd, hc⟩ := h.tcnt0 rfl
      exact catchUp0At_eq_ok.mpr ⟨d, hd, (advance0_of_current hc).symm⟩
  · exact refresh_plain s ha

/-! ### A refresh leaves nothing due -/

theorem refreshEecr_settles (s : State) : eecrDue (refreshEecr s) = false := by
  have hbit : ∀ v : Byte, (clearBit v 2).getLsbD 2 = false := by decide
  unfold refreshEecr
  split
  · rw [eecrDue, State.ioBit, State.byteAt_setByte_same, hbit, Bool.false_and]
  · next h => exact Bool.eq_false_iff.mpr h

theorem refreshPllcsr_settles (s : State) : pllcsrDue (refreshPllcsr s) = false := by
  have hbit : ∀ v : Byte, (setBit v 0).getLsbD 0 = true := by decide
  unfold refreshPllcsr
  split
  · rw [pllcsrDue, State.ioBit, State.ioBit, State.byteAt_setByte_same, hbit, Bool.not_true, Bool.and_false, Bool.false_and]
  · next h => exact Bool.eq_false_iff.mpr h

theorem refreshAdcsra_settles (s : State) : adcsraDue (refreshAdcsra s) = false := by
  have hbit : ∀ v : Byte, (clearBit v 6).getLsbD 6 = false := by decide
  unfold refreshAdcsra
  split
  · rw [adcsraDue, State.ioBit, State.byteAt_setByte_same, hbit, Bool.false_and]
  · next h => exact Bool.eq_false_iff.mpr h

/-- The remainder a catch-up keeps is less than a tick. -/
theorem sub_add_div_mul_div (now last : Nat) {d : Nat} (hd : d ≠ 0) : (now - (last + (now - last) / d * d)) / d = 0 := by
  rw [Nat.sub_add_eq, Nat.mul_comm, ← Nat.mod_eq_sub_mul_div]
  exact Nat.div_eq_of_lt (Nat.mod_lt _ (Nat.pos_of_ne_zero hd))

theorem advance0_current (d : Nat) (s : State) :
    if d = 0 then (advance0 d s.cycles s).last.t0 = s.cycles else (s.cycles - (advance0 d s.cycles s).last.t0) / d = 0 := by
  rcases advance0_cases d s.cycles s with ⟨hd, e⟩ | ⟨hd, hk, e⟩ | ⟨hd, -, e⟩
  · rw [if_pos hd, e]; rfl
  · rw [if_neg hd, e]; exact hk
  · rw [if_neg hd, e]
    exact sub_add_div_mul_div s.cycles s.last.t0 hd

theorem catchUp0_current {s t : State} (h : catchUp0 s.cycles s = .ok t) : timer0Current t := by
  have hc := quiet_cycles (catchUp0_quiet h)
  obtain ⟨d, hd, rfl⟩ := catchUp0At_eq_ok.mp h
  refine ⟨d, ?_, ?_⟩
  · rw [advance0_byteAt _ _ _ (by decide) (by decide), hd]
  · rw [hc]; exact advance0_current d s

theorem refresh_settled {a : Nat} {s t : State} (h : refresh a s = .ok t) : Settled a t := by
  rcases refresh_cases h with ⟨rfl, rfl⟩ | ⟨rfl, rfl⟩ | ⟨rfl, rfl⟩ | ⟨rfl, h⟩ | ⟨ha, -⟩
  · exact ⟨fun _ => refreshEecr_settles s, (absurd · (by decide)), (absurd · (by decide)), (absurd · (by decide))⟩
  · exact ⟨(absurd · (by decide)), fun _ => refreshPllcsr_settles s, (absurd · (by decide)), (absurd · (by decide))⟩
  · exact ⟨(absurd · (by decide)), (absurd · (by decide)), fun _ => refreshAdcsra_settles s, (absurd · (by decide))⟩
  · exact ⟨(absurd · (by decide)), (absurd · (by decide)), (absurd · (by decide)), fun _ => catchUp0_current h⟩
  · simp only [hookedRead, not_or] at ha
    obtain ⟨h0, h1, h2, h3⟩ := ha
    exact ⟨(absurd · h0), (absurd · h1), (absurd · h2), (absurd · h3)⟩

/-- A refresh of another byte makes nothing due. -/
theorem Settled.after_refresh {a b : Nat} {s t : State} (h : Settled a s) (hr : refresh b s = .ok t) : Settled a t := by
  by_cases hab : a = b
  · exact hab ▸ refresh_settled hr
  have hq := refresh_quiet hr
  have hlast := (refresh_last hr).1
  have hbyte : hookedRead a → t.byteAt a = s.byteAt a := fun ha => refresh_byteAt hr fun hm =>
    (mem_refreshBytes hm).elim (fun k => hab k.1) (by rintro rfl; revert ha; unfold hookedRead; decide)
  refine ⟨?_, ?_, ?_, ?_⟩
  · rintro rfl
    rw [← h.eecr rfl, eecrDue, eecrDue, State.ioBit, State.ioBit, hbyte (.inl rfl), quiet_params hq, quiet_cycles hq, hlast]
  · rintro rfl
    rw [← h.pllcsr rfl, pllcsrDue, pllcsrDue, State.ioBit, State.ioBit, State.ioBit, State.ioBit, hbyte (.inr (.inl rfl)),
      quiet_params hq, quiet_cycles hq, hlast]
  · rintro rfl
    rw [← h.adcsra rfl, adcsraDue, adcsraDue, State.ioBit, State.ioBit, hbyte (.inr (.inr (.inl rfl))), quiet_params hq,
      quiet_cycles hq, hlast]
  · rintro rfl
    have hselect : aTCCR0B ∉ refreshBytes b := not_mem_refreshBytes (by unfold hookedRead; decide) (by decide)
    rw [timer0Current, refresh_byteAt hr hselect, quiet_cycles hq, refresh_last_eq hr (Ne.symm hab)]
    exact h.tcnt0 rfl

/-! ### Reads and full resynchronisations -/

theorem memRead_again {a : Nat} {v : Byte} {s t : State} (h : memRead a s = .ok (v, t)) : memRead a t = .ok (v, t) := by
  obtain ⟨ha, hr, hv⟩ := memRead_eq_ok.mp h
  exact memRead_eq_ok.mpr ⟨ha, (refresh_settled hr).refresh_self, hv⟩

/-- A full resynchronisation is the four refreshes in order (R69). -/
theorem fullResync_eq_ok {s w : State} :
    fullResync s = .ok w ↔ ∃ t u v, refresh aEECR s = .ok t ∧ refresh aTCNT0 t = .ok u ∧ refresh aPLLCSR u = .ok v
      ∧ refresh aADCSRA v = .ok w := by
  simp only [fullResync, bind_eq_ok, exists_and_left]

theorem fullResync_again {s w : State} (h : fullResync s = .ok w) : fullResync w = .ok w := by
  obtain ⟨t, u, v, ht, hu, hv, hw⟩ := fullResync_eq_ok.mp h
  have heecr : Settled aEECR w := (((refresh_settled ht).after_refresh hu).after_refresh hv).after_refresh hw
  have htcnt : Settled aTCNT0 w := ((refresh_settled hu).after_refresh hv).after_refresh hw
  have hpll : Settled aPLLCSR w := (refresh_settled hv).after_refresh hw
  have hadc : Settled aADCSRA w := refresh_settled hw
  exact fullResync_eq_ok.mpr ⟨w, w, w, heecr.refresh_self, htcnt.refresh_self, hpll.refresh_self, hadc.refresh_self⟩

/-- Settles O55: after a refresh its hook has nothing to do, and no other refresh changes that. -/
theorem readsAreIdempotent : Obligations.ReadsAreIdempotent :=
  ⟨fun _ _ _ _ => memRead_again, fun _ _ => fullResync_again⟩

end Sys2Proof.Machine
end

/-! PROOF. EECR (O52): what a read shows, and a write as the state it leaves before the EEPROM is touched, its read, and its
programming of one byte (spec/20_memory.md R64, R73, R74). -/

section
namespace Sys2Proof.Machine

/-! ### The read (R73) -/

theorem plainHome_eecr : plainHome aEECR := by refine ⟨?_, ?_, ?_, ?_⟩ <;> decide

theorem memRead_eecr (s : State) : memRead aEECR s = .ok ((refreshEecr s).byteAt aEECR, refreshEecr s) :=
  memRead_eq_ok.mpr ⟨by decide, rfl, ((refreshEecr s).rawRead_plain plainHome_eecr).symm⟩

theorem refreshEecr_quiet (s : State) : quiet s (refreshEecr s) := refresh_quiet (a := aEECR) rfl

theorem refreshEecr_byteAt_other (s : State) {b : Nat} (hb : b ≠ aEECR) : (refreshEecr s).byteAt b = s.byteAt b :=
  refresh_byteAt (a := aEECR) rfl fun hm => hb (List.mem_singleton.mp hm)

/-- Of EECR's bits a refresh clears EEMPE once its window has passed. -/
theorem refreshEecr_bit (s : State) (b : BitNo) :
    ((refreshEecr s).byteAt aEECR).getLsbD b.val = ((s.byteAt aEECR).getLsbD b.val
      && !(decide (b = 2) && decide (s.params.eepromWeCycles ≤ s.cycles - s.last.eewe))) := by
  have hclear : ∀ (v : Byte) (b : BitNo), (clearBit v 2).getLsbD b.val = (v.getLsbD b.val && !decide (b = 2)) := by decide
  unfold refreshEecr
  split
  · next h =>
    rw [Bool.and_eq_true] at h
    rw [State.byteAt_setByte_same, hclear, h.2, Bool.and_true]
  · next h =>
    by_cases hb : b = 2
    · subst hb
      cases h2 : (s.byteAt aEECR).getLsbD 2 <;> simp_all [State.ioBit]
    · simp [hb]

theorem memRead_eecr_bits (s : State) : ∃ v t, memRead aEECR s = .ok (v, t) ∧ bytesKept [aEECR] s t
    ∧ ∀ b : BitNo, v.getLsbD b.val = ((s.byteAt aEECR).getLsbD b.val
      && !(decide (b = 2) && decide (s.params.eepromWeCycles ≤ s.cycles - s.last.eewe))) := by
  have hq := refreshEecr_quiet s
  refine ⟨_, _, memRead_eecr s, ⟨fun b hb => refreshEecr_byteAt_other s (by simpa using hb), fun a => ?_, fun a => ?_⟩,
    refreshEecr_bit s⟩
  · rw [quiet_eeprom hq]
  · rw [State.flashAt, State.flashAt, quiet_flash hq]

/-! ### The state a write leaves before the EEPROM is touched -/

/-- The byte refreshed and stored, the window stamped (R74). -/
def eecrWritten (v : Byte) (s : State) : State := eecrStamped v ((refreshEecr s).setByte aEECR v)

/-- EERE's read, if any, after that. -/
def eecrAfterRead (v : Byte) (s : State) : State :=
  if v.getLsbD 0 then (eecrWritten v s).setByte aEEDR (s.eeprom.read s.eear) else eecrWritten v s

section
variable (v : Byte) (s : State)

theorem eecrWritten_quiet : quiet s (eecrWritten v s) := by
  refine quiet_trans (refreshEecr_quiet s) (quiet_trans (quiet_setByte _ aEECR v) ?_)
  unfold eecrWritten eecrStamped
  split <;> rfl

theorem eecrStamped_byteAt_other {b : Nat} (hb : b ≠ aEECR) : (eecrStamped v s).byteAt b = s.byteAt b := by
  unfold eecrStamped
  split <;> exact State.byteAt_setByte_other _ _ hb

theorem eecrWritten_byteAt_other {b : Nat} (hb : b ≠ aEECR) : (eecrWritten v s).byteAt b = s.byteAt b := by
  rw [eecrWritten, eecrStamped_byteAt_other v _ hb, State.byteAt_setByte_other _ _ hb, refreshEecr_byteAt_other s hb]

theorem eecrWritten_eear : (eecrWritten v s).eear = s.eear := by
  rw [State.eear, State.eear, eecrWritten_byteAt_other v s (by decide), eecrWritten_byteAt_other v s (by decide)]

/-- EERE and EEPE read back 0. -/
theorem eecrWritten_bit (b : BitNo) :
    ((eecrWritten v s).byteAt aEECR).getLsbD b.val = (v.getLsbD b.val && decide (1 < b.val)) := by
  have hbits : ∀ (v : Byte) (b : BitNo),
      (clearBit (clearBit v 0) 1).getLsbD b.val = (v.getLsbD b.val && decide (1 < b.val)) := by decide
  have hbyte : (eecrWritten v s).byteAt aEECR = clearBit (clearBit v 0) 1 := by
    unfold eecrWritten eecrStamped
    split <;> exact State.byteAt_setByte_same _ aEECR _
  rw [hbyte, hbits]

theorem eecrWritten_eewe : (eecrWritten v s).last.eewe = if v.getLsbD 2 then s.cycles else s.last.eewe := by
  have hlast : (refreshEecr s).last = s.last := refresh_last_eq (a := aEECR) rfl (by decide)
  unfold eecrWritten eecrStamped
  split
  · exact (quiet_cycles (refreshEecr_quiet s) :)
  · exact congrArg LastSet.eewe hlast

theorem eecrAfterRead_eq : eecrAfterRead v s = eecrWritten v s
    ∨ eecrAfterRead v s = (eecrWritten v s).setByte aEEDR (s.eeprom.read s.eear) := by
  unfold eecrAfterRead
  split
  · exact .inr rfl
  · exact .inl rfl

theorem eecrAfterRead_quiet : quiet s (eecrAfterRead v s) := by
  refine quiet_trans (eecrWritten_quiet v s) ?_
  rcases eecrAfterRead_eq v s with e | e
  · rw [e]
  · rw [e]; rfl

/-- The read writes EEDR alone. -/
theorem eecrAfterRead_byteAt_other {b : Nat} (hb : b ≠ aEEDR) :
    (eecrAfterRead v s).byteAt b = (eecrWritten v s).byteAt b := by
  rcases eecrAfterRead_eq v s with e | e <;> rw [e]
  exact State.byteAt_setByte_other _ _ hb

theorem eecrAfterRead_eedr :
    (eecrAfterRead v s).byteAt aEEDR = if v.getLsbD 0 then s.eeprom.read s.eear else s.byteAt aEEDR := by
  unfold eecrAfterRead
  split
  · exact State.byteAt_setByte_same _ aEEDR _
  · exact eecrWritten_byteAt_other v s (by decide)

theorem eecrAfterRead_eewe : (eecrAfterRead v s).last.eewe = if v.getLsbD 2 then s.cycles else s.last.eewe := by
  rw [← eecrWritten_eewe]
  rcases eecrAfterRead_eq v s with e | e
  · rw [e]
  · rw [e]; rfl

theorem eecrAfterRead_eear : (eecrAfterRead v s).eear = s.eear := by
  rw [State.eear, eecrAfterRead_byteAt_other v s (by decide), eecrAfterRead_byteAt_other v s (by decide)]
  exact eecrWritten_eear v s

/-! ### The EEPROM's read and write (R64, R74) -/

theorem eepromRead_stop {s : State} (h : ¬ s.eear < Config.eepromBytes) :
    eepromRead s = raise (.outOfRangeEeprom s.eear) := by
  rw [eepromRead, checkEeprom, if_neg h, raise_bind]

theorem eepromProgram_stop {s : State} (h : ¬ s.eear < Config.eepromBytes) :
    eepromProgram v s = raise (.outOfRangeEeprom s.eear) := by
  rw [eepromProgram, checkEeprom, if_neg h, raise_bind]

theorem eepromProgram_refuse {s : State} (h : s.eear < Config.eepromBytes) (hm : v.toNat / 16 % 4 = 3) :
    eepromProgram v s = refuse .eepromMode3 := by
  rw [eepromProgram, checkEeprom, if_pos h, hm]
  rfl

/-- What the three modes leave of the old byte and EEDR: erase and write, erase, AND. -/
def eepromByte (mode : Nat) (old new : Byte) : Byte := if mode = 0 then new else if mode = 1 then 0xFF else old &&& new

theorem eepromResult_eq {mode : Nat} (old new : Byte) (h : mode < 4) (h3 : mode ≠ 3) :
    eepromResult mode old new = .ok (eepromByte mode old new) := by
  unfold eepromResult eepromByte
  split
  · rfl
  split
  · rfl
  exact if_pos (by omega)

/-- A write is EERE's read, then EEPE's programming, on the state the stored byte leaves. -/
theorem memWrite_eecr : memWrite aEECR v s =
    (if v.getLsbD 0 then eepromRead (eecrWritten v s) else .ok (eecrWritten v s)) >>= fun t =>
      if eepromWriteGo v s then eepromProgram v t else .ok t := by
  have hreact : memWrite aEECR v s
      = reactEecr ((refreshEecr s).byteAt aEECR) v ((refreshEecr s).setByte aEECR v) := rfl
  rw [hreact, reactEecr]
  cases v.getLsbD 0 <;> rfl

/-- Where the read's address is in range only the programming may stop. -/
theorem memWrite_eecr_of_read (h : v.getLsbD 0 = true → s.eear < Config.eepromBytes) : memWrite aEECR v s =
    if eepromWriteGo v s then eepromProgram v (eecrAfterRead v s) else .ok (eecrAfterRead v s) := by
  have hread : (if v.getLsbD 0 then eepromRead (eecrWritten v s) else .ok (eecrWritten v s)) = .ok (eecrAfterRead v s) := by
    unfold eecrAfterRead
    split
    · next hv =>
      rw [eepromRead_eq_ok, eecrWritten_eear, quiet_eeprom (eecrWritten_quiet v s)]
      exact ⟨h hv, rfl⟩
    · rfl
  rw [memWrite_eecr, hread, ok_bind]

/-- The state an answered write leaves. -/
def eecrAnswer : State :=
  { eecrAfterRead v s with
    eeprom := if eepromWriteGo v s then
        s.eeprom.write s.eear (eepromByte (v.toNat / 16 % 4) (s.eeprom.read s.eear) ((eecrAfterRead v s).byteAt aEEDR))
      else s.eeprom }

variable {v s}

theorem memWrite_eecr_ok (h : writeOk aEECR v s) : memWrite aEECR v s = .ok (eecrAnswer v s) := by
  obtain ⟨-, -, hk⟩ := h
  obtain ⟨hrange, hmode⟩ := hk rfl
  have he := quiet_eeprom (eecrAfterRead_quiet v s)
  rw [memWrite_eecr_of_read v s fun hv => hrange (.inl hv), eecrAnswer]
  split
  · next hgo =>
    rw [eepromProgram_eq_ok, eecrAfterRead_eear, he]
    exact ⟨hrange (.inr hgo), _, eepromResult_eq _ _ (Nat.mod_lt _ (by decide)) (hmode hgo), rfl⟩
  · rw [← he]

theorem memWrite_eecr_fault (h : v.getLsbD 0 = true ∨ eepromWriteGo v s = true) (hout : ¬ s.eear < Config.eepromBytes) :
    memWrite aEECR v s = raise (.outOfRangeEeprom s.eear) := by
  have hw := eecrWritten_eear v s
  rw [memWrite_eecr]
  by_cases hv : v.getLsbD 0 = true
  · rw [if_pos hv, eepromRead_stop (by rw [hw]; exact hout), hw, raise_bind]
  · rw [if_neg hv, ok_bind, if_pos (h.resolve_left hv), eepromProgram_stop v (by rw [hw]; exact hout), hw]

theorem memWrite_eecr_refuse (hgo : eepromWriteGo v s = true) (hin : s.eear < Config.eepromBytes)
    (hm : v.toNat / 16 % 4 = 3) : memWrite aEECR v s = refuse .eepromMode3 := by
  rw [memWrite_eecr_of_read v s fun _ => hin, if_pos hgo]
  exact eepromProgram_refuse v (by rw [eecrAfterRead_eear]; exact hin) hm

/-- The programmed byte, where one is, and no other. -/
theorem eecrAnswer_eeprom (a : Nat) : (eecrAnswer v s).eeprom.read a =
    if a = s.eear ∧ eepromWriteGo v s = true then
      eepromByte (v.toNat / 16 % 4) (s.eeprom.read s.eear) ((eecrAfterRead v s).byteAt aEEDR)
    else s.eeprom.read a := by
  simp only [eecrAnswer]
  cases eepromWriteGo v s <;> simp [Memory.read_write]

end

/-- Settles O52: what the read shows; what an answered write leaves, field by field; and where the EEPROM stops it. -/
theorem eepromControl : Obligations.EepromControl := by
  refine ⟨memRead_eecr_bits, ?_⟩
  rintro v s go rfl
  have hq := eecrAfterRead_quiet v s
  refine ⟨fun h => ⟨eecrAnswer v s, memWrite_eecr_ok h, fun b => ?_, eecrAfterRead_eewe v s, eecrAfterRead_eedr v s, ?_,
    fun a ha => ?_, fun a h0 h1 => ?_, (quiet_flags hq :), fun r _ => (quiet_reg hq r :)⟩,
    fun h hout => memWrite_eecr_fault h (Nat.not_lt.mpr hout), memWrite_eecr_refuse⟩
  · exact (congrArg (·.getLsbD b.val) (eecrAfterRead_byteAt_other v s (by decide))).trans (eecrWritten_bit v s b)
  · rw [eecrAnswer_eeprom]
    simp only [true_and]
    rfl
  · rw [eecrAnswer_eeprom, if_neg fun k => ha k.1]
  · exact (eecrAfterRead_byteAt_other v s h1).trans (eecrWritten_byteAt_other v s h0)

end Sys2Proof.Machine
end

/-! PROOF. The opcode table (spec/30_encoding.md R106): no word selects two of its rows (R107), so the row a word selects
tells its length (R104). -/

section
namespace Sys2Proof

/-! ### At most one row (R107) -/

/-- Where the two patterns differ in a bit that both masks test, no word selects both rows. -/
theorem OpcodeRow.not_hits_both {a b : OpcodeRow} (h : a.pat &&& b.mask ≠ b.pat &&& a.mask) (w : Word) :
    ¬ (a.hits w = true ∧ b.hits w = true) := by
  rintro ⟨ha, hb⟩
  apply h
  rw [← of_decide_eq_true ha, ← of_decide_eq_true hb, BitVec.and_assoc, BitVec.and_assoc, BitVec.and_comm a.mask]

theorem opcodeTable_pairwise_differ : opcodeTable.Pairwise (fun a b => a.pat &&& b.mask ≠ b.pat &&& a.mask) := by
  decide

/-- Settles O3: the patterns by inspection of the table, the words by the bit in which any two of its rows differ. -/
theorem tableRowsAreDisjoint : Obligations.TableRowsAreDisjoint :=
  ⟨by decide, opcodeTable_pairwise_differ.imp OpcodeRow.not_hits_both⟩

theorem eq_of_hits {a b : OpcodeRow} {w : Word} (ha : a ∈ opcodeTable) (hb : b ∈ opcodeTable)
    (hwa : a.hits w = true) (hwb : b.hits w = true) : a = b := by
  by_contra hne
  have hsymm : Std.Symm fun a b : OpcodeRow => ∀ w : Word, ¬ (a.hits w = true ∧ b.hits w = true) :=
    ⟨fun _ _ h w k => h w k.symm⟩
  exact tableRowsAreDisjoint.2.forall ha hb hne w ⟨hwa, hwb⟩

/-! ### The two-word test (R104) -/

/-- The four words the test compares with are the patterns of the table's two-word rows. -/
theorem is2Word_iff {w : Word} : is2Word w = true ↔ ∃ row ∈ opcodeTable, row.words = 2 ∧ row.hits w = true := by
  simp [is2Word, opcodeTable, opcodeRowsA, opcodeRowsB, opcodeRowsC, opcodeRowsD, OpcodeRow.hits, or_assoc]

theorem is2Word_iff_of_hits {row : OpcodeRow} {w : Word} (hrow : row ∈ opcodeTable) (hw : row.hits w = true) :
    is2Word w = true ↔ row.words = 2 := by
  refine is2Word_iff.trans ⟨?_, fun h => ⟨row, hrow, h, hw⟩⟩
  rintro ⟨b, hb, h2, hwb⟩
  rwa [eq_of_hits hrow hb hw hwb]

end Sys2Proof
end

/-! PROOF. From a word back to itself: the row that a word selects reads an instruction that is encoded as that word
(spec/30_encoding.md R100, R102, R106). -/

section
namespace Sys2Proof

/-! ### A register read from a field is written back as that field (R102)

With it, that the register is of the operand class the field can name (10_state.md R21). -/

theorem ofNat_reg : ∀ x : BitVec 5, BitVec.ofNat 5 (Fin.ofNat 32 x.toNat).val = x := by decide

theorem ofNat_reg_split : ∀ (x : BitVec 1) (y : BitVec 4), BitVec.ofNat 1 ((Fin.ofNat 32 (x ++ y).toNat).val / 16) = x
    ∧ BitVec.ofNat 4 (Fin.ofNat 32 (x ++ y).toNat).val = y := by decide

theorem upper_field : ∀ x : BitVec 4, Reg.isUpper (Fin.ofNat 32 (16 + x.toNat)) = true
    ∧ BitVec.ofNat 4 ((Fin.ofNat 32 (16 + x.toNat)).val - 16) = x := by decide

theorem upperLow_field : ∀ x : BitVec 3, Reg.isUpperLow (Fin.ofNat 32 (16 + x.toNat)) = true
    ∧ BitVec.ofNat 3 ((Fin.ofNat 32 (16 + x.toNat)).val - 16) = x := by decide

theorem pair_field : ∀ x : BitVec 4, Reg.isEven (Fin.ofNat 32 (2 * x.toNat)) = true
    ∧ BitVec.ofNat 4 ((Fin.ofNat 32 (2 * x.toNat)).val / 2) = x := by decide

theorem wordPair_field : ∀ x : BitVec 2, Reg.isUpperPair (Fin.ofNat 32 (24 + 2 * x.toNat)) = true
    ∧ BitVec.ofNat 2 (((Fin.ofNat 32 (24 + 2 * x.toNat)).val - 24) / 2) = x := by decide

theorem rdUpper_isUpper (w : Word) : (rdUpper w).isUpper = true := (upper_field _).1

theorem rdWordPair_isUpperPair (w : Word) : (rdWordPair w).isUpperPair = true := (wordPair_field _).1

theorem upper_isUpper (w : Word) : ((rdUpper w).isUpper && (rrUpper w).isUpper) = true :=
  Bool.and_eq_true_iff.mpr ⟨(upper_field _).1, (upper_field _).1⟩

theorem upperLow_isUpperLow (w : Word) : ((rdUpperLow w).isUpperLow && (rrUpperLow w).isUpperLow) = true :=
  Bool.and_eq_true_iff.mpr ⟨(upperLow_field _).1, (upperLow_field _).1⟩

theorem pair_isEven (w : Word) : ((pairD w).isEven && (pairR w).isEven) = true :=
  Bool.and_eq_true_iff.mpr ⟨(pair_field _).1, (pair_field _).1⟩

theorem ofNat_bitNo : ∀ x : BitVec 3, BitVec.ofNat 3 (Fin.ofNat 8 x.toNat).val = x := by decide

/-! ### A three-part field gives its parts back -/

section
variable {i j k : Nat} {x : BitVec i} {y : BitVec j} {z : BitVec k}

theorem extractLsb'_append_high : (x ++ y ++ z).extractLsb' (j + k) i = x := by
  rw [BitVec.extractLsb'_append_eq_of_le (Nat.le_add_left k j), Nat.add_sub_cancel, BitVec.extractLsb'_append_eq_left]

theorem extractLsb'_append_mid : (x ++ y ++ z).extractLsb' k j = y := Laws.RowHit.field x y z

end

/-! ### The forms of R102: a word is the encoding of its own fields

Each encoding is put together from the left, field by field. Its fixed bits are those of the row's pattern `p`, which a
word that selects the row has wherever the row's mask tests them. -/

section
variable {w m p : Word} {s j k : Nat}

theorem fixed_bits {op : BitVec k} (hw : w &&& m = p) (hp : p.extractLsb' s k = op := by rfl)
    (hm : m.extractLsb' s k = BitVec.allOnes k := by decide) : op = w.extractLsb' s k := by
  rw [← hp, ← hw, BitVec.extractLsb'_and, hm, BitVec.and_allOnes]

/-- Two adjacent fields, the second from bit `s`. -/
theorem append_fields {x : BitVec j} {y : BitVec k} (hx : x = w.extractLsb' (s + k) j) (hy : y = w.extractLsb' s k) :
    x ++ y = w.extractLsb' s (j + k) := by
  rw [hx, hy, BitVec.extractLsb'_append_extractLsb'_eq_extractLsb' rfl]

theorem eq_of_fields {x : Word} (hx : x = w.extractLsb' 0 16) : x = w := hx.trans BitVec.extractLsb'_eq_self

end

section
variable {w p : Word}

theorem encFixed_of_hit (hw : w &&& 0xFFFF = p) : p = w := eq_of_fields (fixed_bits hw BitVec.extractLsb'_eq_self)

theorem encRR_of_hit (hw : w &&& 0xFC00 = p) : encRR (p.extractLsb' 10 6) (rd5 w) (rr5 w) = w :=
  eq_of_fields (append_fields (append_fields (append_fields (fixed_bits hw) (ofNat_reg_split _ _).1) (ofNat_reg _))
    (ofNat_reg_split _ _).2)

theorem encRI_of_hit (hw : w &&& 0xF000 = p) : encRI (p.extractLsb' 12 4) (rdUpper w) (imm8 w) = w :=
  eq_of_fields (append_fields (append_fields (append_fields (fixed_bits hw) BitVec.extractLsb'_append_eq_left)
    (upper_field _).2) BitVec.extractLsb'_append_eq_right)

theorem encR_of_hit (hw : w &&& 0xFE0F = p) : encR (p.extractLsb' 9 7) (rd5 w) (p.extractLsb' 0 4) = w :=
  eq_of_fields (append_fields (append_fields (fixed_bits hw) (ofNat_reg _)) (fixed_bits hw))

theorem encRP_of_hit (hw : w &&& 0xFF00 = p) : encRP (p.extractLsb' 8 8) (pairD w) (pairR w) = w :=
  eq_of_fields (append_fields (append_fields (fixed_bits hw) (pair_field _).2) (pair_field _).2)

theorem encR4R4_of_hit (hw : w &&& 0xFF00 = p) : encR4R4 (p.extractLsb' 8 8) (rdUpper w) (rrUpper w) = w :=
  eq_of_fields (append_fields (append_fields (fixed_bits hw) (upper_field _).2) (upper_field _).2)

theorem encR3R3_of_hit (hw : w &&& 0xFF88 = p) :
    encR3R3 (p.extractLsb' 7 9) (rdUpperLow w) (p.extractLsb' 3 1) (rrUpperLow w) = w :=
  eq_of_fields (append_fields (append_fields (append_fields (fixed_bits hw) (upperLow_field _).2) (fixed_bits hw))
    (upperLow_field _).2)

theorem encDisp_of_hit (hw : w &&& 0xD208 = p) (h14 : p.extractLsb' 14 2 = 0b10#2 := by rfl)
    (h12 : p.extractLsb' 12 1 = 0b0#1 := by rfl) :
    encDisp (p.extractLsb' 9 1) (rd5 w) (p.extractLsb' 3 1) (disp6 w) = w :=
  have high : 0b10#2 ++ (disp6 w).extractLsb' 5 1 ++ 0b0#1 ++ (disp6 w).extractLsb' 3 2 = w.extractLsb' 10 6 :=
    append_fields (append_fields (append_fields (fixed_bits hw h14) extractLsb'_append_high) (fixed_bits hw h12))
      extractLsb'_append_mid
  eq_of_fields (append_fields (append_fields (append_fields (append_fields high (fixed_bits hw)) (ofNat_reg _))
    (fixed_bits hw)) BitVec.extractLsb'_append_eq_right)

theorem encAbs22_of_hit (w2 : Word) (hw : w &&& 0xFE0E = p) (h9 : p.extractLsb' 9 7 = 0b1001010#7 := by rfl) :
    encAbs22 (p.extractLsb' 1 3) (abs22 w w2) = w :=
  eq_of_fields (append_fields (append_fields (append_fields (fixed_bits hw h9) extractLsb'_append_high)
    (fixed_bits hw)) extractLsb'_append_mid)

theorem encAbs22_second (low : BitVec 3) (w w2 : Word) :
    [encAbs22 low (abs22 w w2), (abs22 w w2).extractLsb' 0 16] = [encAbs22 low (abs22 w w2), w2] :=
  congrArg ([_, ·]) BitVec.extractLsb'_append_eq_right

theorem encWI_of_hit (hw : w &&& 0xFF00 = p) : encWI (p.extractLsb' 8 8) (rdWordPair w) (imm6 w) = w :=
  eq_of_fields (append_fields (append_fields (append_fields (fixed_bits hw) BitVec.extractLsb'_append_eq_left)
    (wordPair_field _).2) BitVec.extractLsb'_append_eq_right)

theorem encIOB_of_hit (hw : w &&& 0xFF00 = p) : encIOB (p.extractLsb' 8 8) (ioAddr5 w) (bitLow w) = w :=
  eq_of_fields (append_fields (append_fields (fixed_bits hw) rfl) (ofNat_bitNo _))

theorem encIO_of_hit (hw : w &&& 0xF800 = p) : encIO (p.extractLsb' 11 5) (rd5 w) (ioAddr6 w) = w :=
  eq_of_fields (append_fields (append_fields (append_fields (fixed_bits hw) BitVec.extractLsb'_append_eq_left)
    (ofNat_reg _)) BitVec.extractLsb'_append_eq_right)

theorem encBR_of_hit (hw : w &&& 0xFC00 = p) : encBR (p.extractLsb' 10 6) (bitLow w) (rel7 w) = w :=
  eq_of_fields (append_fields (append_fields (fixed_bits hw) rfl) (ofNat_bitNo _))

theorem encRB_of_hit (hw : w &&& 0xFE08 = p) (h3 : p.extractLsb' 3 1 = 0b0#1 := by rfl) :
    encRB (p.extractLsb' 9 7) (rd5 w) (bitLow w) = w :=
  eq_of_fields (append_fields (append_fields (append_fields (fixed_bits hw) (ofNat_reg _)) (fixed_bits hw h3))
    (ofNat_bitNo _))

theorem encS_of_hit (hw : w &&& 0xFF8F = p) (h0 : p.extractLsb' 0 4 = 0b1000#4 := by rfl) :
    encS (p.extractLsb' 7 9) (flagNo w) = w :=
  eq_of_fields (append_fields (append_fields (fixed_bits hw) (ofNat_bitNo _)) (fixed_bits hw h0))

theorem encRel12_of_hit (hw : w &&& 0xF000 = p) : p.extractLsb' 12 4 ++ rel12 w = w :=
  eq_of_fields (append_fields (fixed_bits hw) rfl)

end

/-! ### The rows of R106, each by its form: one entry per row, in the order of the table -/

/-- What the row reads from a word that selects it is well-formed and is encoded as that word, with the second word
where the row has one. -/
def OpcodeRow.Reencodes (row : OpcodeRow) : Prop :=
  ∀ w w2 : Word, row.hits w = true → (row.build w w2).wellFormed = true
    ∧ encode (row.build w w2) = if row.words = 2 then [w, w2] else [w]

section
variable {m p : Word}

/-- A one-word row whose instruction is encoded by `e`. That it is, and where every operand can be named that it is
well-formed, are the instruction's own arms of `encode` and `wellFormed`. -/
theorem OpcodeRow.Reencodes.one {f : Word → Instr} {e : Word → Word} (he : ∀ {w}, w &&& m = p → e w = w)
    (wf : ∀ w, (f w).wellFormed = true := by exact fun _ => rfl)
    (hf : ∀ w, encode (f w) = [e w] := by exact fun _ => rfl) :
    OpcodeRow.Reencodes ⟨m, p, 1, fun w _ => f w⟩ := fun w _ hw =>
  ⟨wf w, (hf w).trans (congrArg ([·]) (he (of_decide_eq_true hw)))⟩

/-- A two-word row whose instruction has `e` as the first word of its encoding. -/
theorem OpcodeRow.Reencodes.two {f : Word → Word → Instr} {e : Word → Word → Word}
    (he : ∀ {w} w2, w &&& m = p → e w w2 = w) (hf : ∀ w w2, encode (f w w2) = [e w w2, w2])
    (wf : ∀ w w2, (f w w2).wellFormed = true := by exact fun _ _ => rfl) : OpcodeRow.Reencodes ⟨m, p, 2, f⟩ :=
  fun w w2 hw => ⟨wf w w2, (hf w w2).trans (congrArg ([·, w2]) (he w2 (of_decide_eq_true hw)))⟩

end

theorem reencodes_rowsA : ∀ row ∈ opcodeRowsA, row.Reencodes := by
  simp only [opcodeRowsA, List.forall_mem_cons]
  exact ⟨.one encFixed_of_hit, .one encRP_of_hit pair_isEven, .one encR4R4_of_hit upper_isUpper,
    .one encR3R3_of_hit upperLow_isUpperLow, .one encR3R3_of_hit upperLow_isUpperLow,
    .one encR3R3_of_hit upperLow_isUpperLow, .one encR3R3_of_hit upperLow_isUpperLow, .one encRR_of_hit,
    .one encRR_of_hit, .one encRR_of_hit, .one encRR_of_hit, .one encRR_of_hit, .one encRR_of_hit, .one encRR_of_hit,
    .one encRR_of_hit, .one encRR_of_hit, .one encRR_of_hit, .one encRR_of_hit, .one encRI_of_hit rdUpper_isUpper,
    .one encRI_of_hit rdUpper_isUpper, .one encRI_of_hit rdUpper_isUpper, .one encRI_of_hit rdUpper_isUpper,
    .one encRI_of_hit rdUpper_isUpper, List.forall_mem_nil _⟩

theorem reencodes_rowsB : ∀ row ∈ opcodeRowsB, row.Reencodes := by
  simp only [opcodeRowsB, List.forall_mem_cons]
  exact ⟨.one encDisp_of_hit, .one encDisp_of_hit, .one encDisp_of_hit, .one encDisp_of_hit,
    .two (fun _ => encR_of_hit) fun _ _ => rfl, .one encR_of_hit, .one encR_of_hit, .one encR_of_hit,
    .one encR_of_hit, .one encR_of_hit, .one encR_of_hit, .one encR_of_hit, .one encR_of_hit, .one encR_of_hit,
    .one encR_of_hit, .two (fun _ => encR_of_hit) fun _ _ => rfl, .one encR_of_hit, .one encR_of_hit,
    .one encR_of_hit, .one encR_of_hit, .one encR_of_hit, .one encR_of_hit, .one encR_of_hit, .one encR_of_hit,
    List.forall_mem_nil _⟩

theorem reencodes_rowsC : ∀ row ∈ opcodeRowsC, row.Reencodes := by
  simp only [opcodeRowsC, List.forall_mem_cons]
  exact ⟨.one encR_of_hit, .one encR_of_hit, .one encR_of_hit, .one encR_of_hit, .one encR_of_hit, .one encR_of_hit,
    .one encR_of_hit, .one encS_of_hit, .one encS_of_hit, .one encFixed_of_hit, .one encFixed_of_hit,
    .one encFixed_of_hit, .one encFixed_of_hit, .one encFixed_of_hit, .one encFixed_of_hit, .one encFixed_of_hit,
    .one encFixed_of_hit, .one encR_of_hit, .two encAbs22_of_hit (encAbs22_second _),
    .two encAbs22_of_hit (encAbs22_second _), .one encWI_of_hit rdWordPair_isUpperPair,
    .one encWI_of_hit rdWordPair_isUpperPair, List.forall_mem_nil _⟩

theorem reencodes_rowsD : ∀ row ∈ opcodeRowsD, row.Reencodes := by
  simp only [opcodeRowsD, List.forall_mem_cons]
  exact ⟨.one encIOB_of_hit, .one encIOB_of_hit, .one encIOB_of_hit, .one encIOB_of_hit, .one encRR_of_hit,
    .one encIO_of_hit, .one encIO_of_hit, .one encRel12_of_hit, .one encRel12_of_hit,
    .one encRI_of_hit rdUpper_isUpper, .one encBR_of_hit, .one encBR_of_hit, .one encRB_of_hit, .one encRB_of_hit,
    .one encRB_of_hit, .one encRB_of_hit, List.forall_mem_nil _⟩

theorem reencodes_of_mem {row : OpcodeRow} (h : row ∈ opcodeTable) : row.Reencodes := by
  simp only [opcodeTable, List.mem_append] at h
  rcases h with ((h | h) | h) | h
  · exact reencodes_rowsA row h
  · exact reencodes_rowsB row h
  · exact reencodes_rowsC row h
  · exact reencodes_rowsD row h

/-! ### The decoder -/

/-- What is read from two words is what the table's row, selected by the first, builds (R101). -/
theorem exists_row_of_decodeWords {w w2 : Word} {i : Instr} (h : decodeWords w w2 = some i) :
    ∃ row ∈ opcodeTable, row.hits w = true ∧ row.build w w2 = i := by
  obtain ⟨row, hfind, hi⟩ := Option.map_eq_some_iff.mp h
  exact ⟨row, List.mem_of_find?_eq_some hfind, List.find?_some (p := fun row : OpcodeRow => row.hits w) hfind, hi⟩

/-- Settles O2: the row that the first word selects gives the word back, and tells its length as `is2Word` does. -/
theorem encodeOfDecode : Obligations.EncodeOfDecode := by
  intro w w2 i h
  obtain ⟨row, hrow, hw, rfl⟩ := exists_row_of_decodeWords h
  simp only [is2Word_iff_of_hits hrow hw]
  exact reencodes_of_mem hrow w w2 hw

end Sys2Proof
end

/-! PROOF. The arithmetic and compare instructions (spec/40_arithmetic.md): what the flag functions give in numbers (R130 to
R132), the answer of an instruction on registers and flags, and the families assembled from the two (O19, O20, O21, O23), with
the carry chains of ADD then ADC and CP then CPC (O24). -/

section
namespace Sys2Proof.Machine

/-! ### Bytes and words as signed numbers -/

theorem toInt_byte (a : Byte) : a.toInt = if a.toNat < 128 then (a.toNat : Int) else a.toNat - 256 := by
  have := BitVec.toInt_eq_toNat_cond a
  omega

theorem msb_byte (r : Byte) : r.msb = decide (128 ≤ r.toNat) := BitVec.msb_eq_decide r

theorem toInt_word (a : Word) : a.toInt = if a.toNat < 32768 then (a.toNat : Int) else a.toNat - 65536 := by
  have := BitVec.toInt_eq_toNat_cond a
  omega

theorem msb_word (r : Word) : r.msb = decide (32768 ≤ r.toNat) := BitVec.msb_eq_decide r

theorem toInt_word16 (hi lo : Byte) : (word16 hi lo).toInt = hi.toInt * 256 + lo.toNat := by
  rw [word16, BitVec.toInt_append, if_neg (by decide), Int.mul_comm]
  rfl

theorem decide_eq_zero {w : Nat} (r : BitVec w) : decide (r = 0) = decide (r.toNat = 0) :=
  decide_eq_decide.mpr BitVec.toNat_inj.symm

theorem decide_xor_decide {p q r : Prop} [Decidable p] [Decidable q] [Decidable r] (h : (¬ (p ↔ q)) ↔ r) :
    (decide p ^^ decide q) = decide r := by
  rw [Bool.eq_iff_iff, Bool.xor_iff_ne, decide_eq_true_iff, ← h, ne_eq, decide_eq_decide]

/-- A carry as a number. -/
theorem toNat_of_eq_decide {b : Bool} {p : Prop} [Decidable p] (h : b = decide p) :
    p ∧ b.toNat = 1 ∨ ¬ p ∧ b.toNat = 0 := by
  by_cases hp : p <;> simp [h, hp]

/-! ### The flag functions in numbers (R130 to R132)

V marks that the exact signed result does not fit. The bits that are kept then have the other sign, so N xor V is the sign
of the exact result (R147). -/

/-- A byte that is `x` modulo 256: it differs from `x` where `x` is no signed byte, and its sign bit is then wrong. -/
theorem signed_byte {r : Byte} {x : Int} (hr : (r.toNat : Int) = x % 256) (hlo : -256 ≤ x) (hhi : x < 256) :
    decide (r.toInt ≠ x) = decide (x < -128 ∨ 127 < x) ∧ (r.msb ^^ decide (r.toInt ≠ x)) = decide (x < 0) := by
  have hi := toInt_byte r
  refine ⟨decide_eq_decide.mpr (by omega), ?_⟩
  rw [msb_byte]
  exact decide_xor_decide (by omega)

theorem addFlags8_verdict (a b : Byte) (c : Bool) (f : Flags) :
    addVerdict a b c (addFlags8 a b c f).result (addFlags8 a b c f).flags := by
  have hr : (addFlags8 a b c f).result.toNat = (a.toNat + b.toNat + c.toNat) % 256 := BitVec.toNat_ofNat _ _
  have ha := toInt_byte a
  have hb := toInt_byte b
  have hc := c.toNat_lt
  obtain ⟨hv, hs⟩ := signed_byte (r := (addFlags8 a b c f).result) (x := a.toInt + b.toInt + c.toNat)
    (by omega) (by omega) (by omega)
  exact ⟨hr, rfl, rfl, hv, msb_byte _, decide_eq_zero _, hs⟩

theorem subFlags8_verdict (a b : Byte) (c inclZ : Bool) (f : Flags) :
    subVerdict a b c (if inclZ then f.z else true) (subFlags8 a b c inclZ f).result (subFlags8 a b c inclZ f).flags := by
  have hr : ((subFlags8 a b c inclZ f).result.toNat : Int) = ((a.toNat : Int) - b.toNat - c.toNat) % 256 := by
    rw [subFlags8, BitVec.toNat_ofInt]
    omega
  have ha := toInt_byte a
  have hb := toInt_byte b
  have hc := c.toNat_lt
  obtain ⟨hv, hs⟩ := signed_byte (r := (subFlags8 a b c inclZ f).result) (x := a.toInt - b.toInt - c.toNat)
    (by omega) (by omega) (by omega)
  exact ⟨hr, rfl, rfl, hv, msb_byte _, congrArg (· && _) (decide_eq_zero _), hs⟩

/-- The result and the flags of a + k on a word, as O23 states them. -/
def addWordVerdict (a : Word) (k : BitVec 6) (r : Word) (f : Flags) : Prop :=
  r.toNat = (a.toNat + k.toNat) % 65536
    ∧ f.c = decide (65535 < a.toNat + k.toNat)
    ∧ f.v = decide (32767 < a.toInt + k.toNat)
    ∧ f.n = decide (32768 ≤ r.toNat)
    ∧ f.z = decide (r.toNat = 0)
    ∧ f.s = decide (a.toInt + k.toNat < 0)

/-- The result and the flags of a - k on a word, as O23 states them. -/
def subWordVerdict (a : Word) (k : BitVec 6) (r : Word) (f : Flags) : Prop :=
  (r.toNat : Int) = (a.toNat - k.toNat : Int) % 65536
    ∧ f.c = decide (a.toNat < k.toNat)
    ∧ f.v = decide (a.toInt - k.toNat < -32768)
    ∧ f.n = decide (32768 ≤ r.toNat)
    ∧ f.z = decide (r.toNat = 0)
    ∧ f.s = decide (a.toInt - k.toNat < 0)

/-- k is not negative, so an addition overflows upwards only: from a clear sign bit to a set one. -/
theorem addWord16_verdict (a : Word) (k : BitVec 6) (f : Flags) :
    addWordVerdict a k (addWord16 a k f).result (addWord16 a k f).flags := by
  have hr : (addWord16 a k f).result.toNat = (a.toNat + k.toNat) % 65536 := BitVec.toNat_ofNat _ _
  have ha := toInt_word a
  have hk := k.isLt
  have hv : (!a.msb && (addWord16 a k f).result.msb) = decide (32767 < a.toInt + k.toNat) := by
    rw [msb_word, msb_word, ← decide_not, ← Bool.decide_and]
    exact decide_eq_decide.mpr (by omega)
  have hs : ((addWord16 a k f).result.msb ^^ decide (32767 < a.toInt + k.toNat)) = decide (a.toInt + k.toNat < 0) := by
    rw [msb_word]
    exact decide_xor_decide (by omega)
  exact ⟨hr, rfl, hv, msb_word _, decide_eq_zero _, (congrArg (_ ^^ ·) hv).trans hs⟩

/-- A subtraction overflows downwards only: from a set sign bit to a clear one. -/
theorem subWord16_verdict (a : Word) (k : BitVec 6) (f : Flags) :
    subWordVerdict a k (subWord16 a k f).result (subWord16 a k f).flags := by
  have hr : ((subWord16 a k f).result.toNat : Int) = (a.toNat - k.toNat : Int) % 65536 := by
    rw [subWord16, BitVec.toNat_ofInt]
    omega
  have ha := toInt_word a
  have hk := k.isLt
  have hv : (a.msb && !(subWord16 a k f).result.msb) = decide (a.toInt - k.toNat < -32768) := by
    rw [msb_word, msb_word, ← decide_not, ← Bool.decide_and]
    exact decide_eq_decide.mpr (by omega)
  have hs : ((subWord16 a k f).result.msb ^^ decide (a.toInt - k.toNat < -32768)) = decide (a.toInt - k.toNat < 0) := by
    rw [msb_word]
    exact decide_xor_decide (by omega)
  exact ⟨hr, rfl, hv, msb_word _, decide_eq_zero _, (congrArg (_ ^^ ·) hv).trans hs⟩

/-! ### The answer of an instruction on registers and flags

`P` is what the flag function's result and flags meet, `l` the flags the instruction may write. -/

/-- With no count overridden the one charged is the table's (70_reset_and_hazards.md R360). -/
theorem charged_of_default {c : CycCase} {n : Nat} {s t : State} (hn : cycDefault c = n)
    (ht : t.cycles = s.cycles + s.params.cyc c) : charged c n s t := by
  refine ⟨ht, fun h => ?_⟩
  rw [ht, Params.cyc, h, ← hn]
  rfl

section
variable {c : CycCase} {d : Reg} {n : Nat} {s : State} {l : List BitNo}

theorem answers_writeAlu {x : Alu 8} {P : Byte → Flags → Prop} (hp : P x.result x.flags)
    (hl : ∀ k ∉ l, x.flags.get k = s.flags.get k) (hn : cycDefault c = n) :
    ∃ t, answer (writeAlu c d x s) = .next t ∧ P (t.reg d) t.flags
      ∧ flagsKept l s t ∧ onlyRegs [d] s t ∧ movedOn 1 c n s t :=
  ⟨_, rfl, (s.reg_setReg_same d x.result).symm ▸ hp, hl,
    ⟨s.regsKept_setReg d x.result, rfl, memKept_refl s, systemKept_refl s⟩, rfl, charged_of_default hn rfl⟩

theorem answers_writeCompare {x : Alu 8} {P : Byte → Flags → Prop} (hp : P x.result x.flags)
    (hl : ∀ k ∉ l, x.flags.get k = s.flags.get k) (hn : cycDefault c = n) :
    ∃ t r, answer (writeCompare c x s) = .next t ∧ P r t.flags
      ∧ flagsKept l s t ∧ onlyRegs [] s t ∧ movedOn 1 c n s t :=
  ⟨_, x.result, rfl, hp, hl, ⟨fun _ _ => rfl, rfl, memKept_refl s, systemKept_refl s⟩, rfl, charged_of_default hn rfl⟩

theorem answers_writeAluPair {x : Alu 16} {P : Word → Flags → Prop} (hp : P x.result x.flags)
    (hl : ∀ k ∉ l, x.flags.get k = s.flags.get k) (hn : cycDefault c = n) :
    ∃ t, answer (writeAluPair c d x s) = .next t ∧ P (t.pair d) t.flags
      ∧ flagsKept l s t ∧ onlyRegs [d, d + 1] s t ∧ movedOn 1 c n s t :=
  ⟨_, rfl, (s.pair_setPair d x.result).symm ▸ hp, hl,
    ⟨s.regsKept_setPair d x.result, rfl, memKept_refl s, systemKept_refl s⟩, rfl, charged_of_default hn rfl⟩

end

/-! ### The flags of R57's columns -/

theorem addFlags8_kept (a b : Byte) (c : Bool) (f : Flags) :
    ∀ k ∉ ([0, 1, 2, 3, 4, 5] : List BitNo), (addFlags8 a b c f).flags.get k = f.get k :=
  Flags.get_of_not_arith rfl rfl

theorem subFlags8_kept (a b : Byte) (c inclZ : Bool) (f : Flags) :
    ∀ k ∉ ([0, 1, 2, 3, 4, 5] : List BitNo), (subFlags8 a b c inclZ f).flags.get k = f.get k :=
  Flags.get_of_not_arith rfl rfl

/-! ### The families -/

/-- Settles O19: the verdict of `addFlags8`, in the answer of an 8-bit instruction. -/
theorem addFamily : Obligations.AddFamily :=
  ⟨fun _ _ _ => answers_writeAlu (addFlags8_verdict _ _ _ _) (addFlags8_kept _ _ _ _) rfl,
    fun _ _ _ => answers_writeAlu (addFlags8_verdict _ _ _ _) (addFlags8_kept _ _ _ _) rfl⟩

/-- Settles O20: the verdict of `subFlags8`, chained through Z by SBC and SBCI. -/
theorem subtractFamily : Obligations.SubtractFamily :=
  ⟨fun _ _ _ => answers_writeAlu (subFlags8_verdict _ _ _ false _) (subFlags8_kept _ _ _ _ _) rfl,
    fun _ _ _ => answers_writeAlu (subFlags8_verdict _ _ _ false _) (subFlags8_kept _ _ _ _ _) rfl,
    fun _ _ _ => answers_writeAlu (subFlags8_verdict _ _ _ true _) (subFlags8_kept _ _ _ _ _) rfl,
    fun _ _ _ => answers_writeAlu (subFlags8_verdict _ _ _ true _) (subFlags8_kept _ _ _ _ _) rfl,
    fun _ _ => answers_writeAlu (subFlags8_verdict _ _ _ false _) (subFlags8_kept _ _ _ _ _) rfl⟩

/-- Settles O21: the same verdict, its result discarded. -/
theorem compareFamily : Obligations.CompareFamily :=
  ⟨fun _ _ _ => answers_writeCompare (subFlags8_verdict _ _ _ false _) (subFlags8_kept _ _ _ _ _) rfl,
    fun _ _ _ => answers_writeCompare (subFlags8_verdict _ _ _ true _) (subFlags8_kept _ _ _ _ _) rfl,
    fun _ _ _ => answers_writeCompare (subFlags8_verdict _ _ _ false _) (subFlags8_kept _ _ _ _ _) rfl⟩

/-- Settles O23: the verdicts on words, in the answer of an instruction on a pair. -/
theorem addSubWord : Obligations.AddSubWord := by
  refine ⟨fun d k s => ?_, fun d k s => ?_⟩
  · obtain ⟨t, ht, ⟨hr, hc, hv, hn, hz, hs⟩, hkept⟩ := answers_writeAluPair (c := .adiw) (d := d)
      (addWord16_verdict (s.pair d) k s.flags) (Flags.get_of_not_shift rfl rfl rfl) rfl
    exact ⟨t, ht, hr, hc, hv, hn, hz, hs, hkept⟩
  · obtain ⟨t, ht, ⟨hr, hc, hv, hn, hz, hs⟩, hkept⟩ := answers_writeAluPair (c := .sbiw) (d := d)
      (subWord16_verdict (s.pair d) k s.flags) (Flags.get_of_not_shift rfl rfl rfl) rfl
    exact ⟨t, ht, hr, hc, hv, hn, hz, hs, hkept⟩

/-! ### The carry chains (R147)

The second instruction reads C (and CPC also Z) as the first left it, and the registers of the high bytes as they were. -/

/-- The 16-bit sum from the verdicts of its two bytes, the low one's C carried into the high one. -/
theorem addVerdict_chain {ah al bh bl h l : Byte} {c : Bool} {f g : Flags} (hl : addVerdict al bl c l f)
    (hh : addVerdict ah bh f.c h g) :
    (word16 h l).toNat = ((word16 ah al).toNat + (word16 bh bl).toNat + c.toNat) % 65536
      ∧ g.c = decide (65535 < (word16 ah al).toNat + (word16 bh bl).toNat + c.toNat) := by
  obtain ⟨hlr, hlc, -⟩ := hl
  obtain ⟨hhr, hhc, -⟩ := hh
  have hcin := c.toNat_lt
  have hcarry := toNat_of_eq_decide hlc
  rw [toNat_word16, toNat_word16, toNat_word16]
  exact ⟨by omega, hhc.trans (decide_eq_decide.mpr (by omega))⟩

/-- The 16-bit order and equality from the verdicts of the two bytes, C and Z of the low one chained into the high one. -/
theorem subVerdict_chain {ah al bh bl h l : Byte} {f g : Flags} (hl : subVerdict al bl false true l f)
    (hh : subVerdict ah bh f.c f.z h g) :
    g.c = decide ((word16 ah al).toNat < (word16 bh bl).toNat)
      ∧ g.z = decide (word16 ah al = word16 bh bl)
      ∧ g.s = decide ((word16 ah al).toInt < (word16 bh bl).toInt) := by
  obtain ⟨hlr, hlc, -, -, -, hlz, -⟩ := hl
  obtain ⟨hhr, hhc, -, -, -, hhz, hhs⟩ := hh
  have hborrow := toNat_of_eq_decide hlc
  rw [Bool.toNat_false] at hlr hborrow
  refine ⟨hhc.trans (decide_eq_decide.mpr ?_), ?_, hhs.trans (decide_eq_decide.mpr ?_)⟩
  · rw [toNat_word16, toNat_word16]
    omega
  · rw [hhz, hlz, Bool.and_true, ← Bool.decide_and, decide_eq_decide, ← BitVec.toNat_inj, toNat_word16, toNat_word16]
    omega
  · rw [toInt_word16, toInt_word16]
    omega

/-- Settles O24: each chain runs its two instructions, and the verdicts of the two bytes make that of the word. -/
theorem carryChains : Obligations.CarryChains := by
  refine ⟨fun dl dh rl rh s hd hr => ?_, fun dl dh rl rh s => ?_⟩
  · obtain ⟨t, ht, hl, -, ⟨hkeep, -⟩, -⟩ := addFamily.1 dl rl s
    obtain ⟨u, hu, hh, -, ⟨hkeep', -⟩, -⟩ := addFamily.2 dh rh t
    rw [hkeep dh (by simpa using hd.symm), hkeep rh (by simpa using hr.symm)] at hh
    rw [← hkeep' dl (by simpa using hd)] at hl
    exact ⟨t, u, ht, hu, addVerdict_chain hl hh⟩
  · obtain ⟨t, x, ht, hl, -, ⟨hkeep, -⟩, -⟩ := compareFamily.1 dl rl s
    obtain ⟨u, y, hu, hh, -⟩ := compareFamily.2.1 dh rh t
    rw [hkeep dh (by simp), hkeep rh (by simp)] at hh
    exact ⟨t, u, ht, hu, subVerdict_chain hl hh⟩

end Sys2Proof.Machine
end

/-! PROOF. The logic, shift and bit instructions (spec/41_logic_and_bit.md): what their flag functions and single-bit masks give,
the answer of an instruction that writes one register or the flags alone, and the families assembled from these (O25, O26, O27);
SBI and CBI by the access they make of one I/O byte (O48). -/

section
namespace Sys2Proof.Machine

/-! ### Results and flags in numbers (R150, R156 to R161) -/

/-- Each bit of `r` is `op` of the same bits of `x` and `y`. -/
def bitwise (op : Bool → Bool → Bool) (x y r : Byte) : Prop :=
  ∀ b : BitNo, r.getLsbD b.val = op (x.getLsbD b.val) (y.getLsbD b.val)

theorem bitwise_and (x y : Byte) : bitwise and x y (x &&& y) := fun _ => BitVec.getLsbD_and

theorem bitwise_or (x y : Byte) : bitwise or x y (x ||| y) := fun _ => BitVec.getLsbD_or

theorem bitwise_xor (x y : Byte) : bitwise xor x y (x ^^^ y) := fun _ => BitVec.getLsbD_xor

theorem logicFlags_verdict (r : Byte) (f : Flags) : logicVerdict r (logicFlags r f).flags :=
  ⟨rfl, msb_byte r, decide_eq_zero r, Bool.xor_false r.msb⟩

theorem comFlags_toNat (a : Byte) (f : Flags) : (comFlags a f).result.toNat = 255 - a.toNat := by
  rw [comFlags, BitVec.toNat_ofNat]
  omega

theorem comFlags_verdict (a : Byte) (f : Flags) :
    logicVerdict (comFlags a f).result (comFlags a f).flags ∧ (comFlags a f).flags.c = true :=
  ⟨logicFlags_verdict (comFlags a f).result f, rfl⟩

/-- The bit a shift moves into C is the parity of its operand. -/
theorem getLsbD_zero_eq_odd (a : Byte) : a.getLsbD 0 = decide (a.toNat % 2 = 1) := Nat.testBit_zero a.toNat

theorem shiftFlags_verdict (r : Byte) (out : Bool) (f : Flags) : shiftVerdict r out (shiftFlags r out f).flags :=
  ⟨rfl, msb_byte r, decide_eq_zero r, rfl, rfl⟩

/-- The upper seven bits of a byte, moved down under a new bit 7. -/
theorem toNat_rotateIn (b : Bool) (a : Byte) :
    (BitVec.ofBool b ++ a.extractLsb' 1 7).toNat = a.toNat / 2 + 128 * b.toNat := by
  have hb := b.toNat_lt
  rw [BitVec.toNat_append, BitVec.extractLsb'_toNat, BitVec.toNat_ofBool,
    ← Nat.shiftLeft_add_eq_or_of_lt (Nat.mod_lt _ (by decide)), Nat.shiftLeft_eq, Nat.shiftRight_eq_div_pow]
  omega

/-- Keeping bit 7 while the rest moves down halves the signed value, rounding down. -/
theorem toInt_arithmeticShift (a : Byte) : (a.extractLsb' 7 1 ++ a.extractLsb' 1 7).toInt = a.toInt / 2 := by
  have hsign : a.extractLsb' 7 1 = BitVec.ofBool a.msb := by
    ext i hi
    obtain rfl : i = 0 := by omega
    simp [BitVec.msb_eq_getLsbD_last]
  have hr := toNat_rotateIn a.msb a
  have hs := toNat_of_eq_decide (msb_byte a)
  rw [hsign, toInt_byte, toInt_byte, hr]
  omega

theorem toNat_swapNibbles (a : Byte) :
    (a.extractLsb' 0 4 ++ a.extractLsb' 4 4).toNat = a.toNat % 16 * 16 + a.toNat / 16 := by
  rw [BitVec.toNat_append, BitVec.extractLsb'_toNat, BitVec.extractLsb'_toNat,
    ← Nat.shiftLeft_add_eq_or_of_lt (Nat.mod_lt _ (by decide)), Nat.shiftLeft_eq, Nat.shiftRight_eq_div_pow]
  omega

/-! ### One bit of a byte -/

theorem getLsbD_bitMask (b k : BitNo) : (1#8 <<< b.val).getLsbD k.val = decide (k = b) := by
  revert b k; decide

theorem getLsbD_setBit (v : Byte) (b k : BitNo) :
    (setBit v b.val).getLsbD k.val = (v.getLsbD k.val || decide (k = b)) := by
  rw [setBit, BitVec.getLsbD_or, getLsbD_bitMask]

theorem getLsbD_clearBit (v : Byte) (b k : BitNo) :
    (clearBit v b.val).getLsbD k.val = (v.getLsbD k.val && !decide (k = b)) := by
  rw [clearBit, BitVec.getLsbD_and, BitVec.getLsbD_not, getLsbD_bitMask, decide_eq_true k.isLt, Bool.true_and]

/-- What BLD writes: the bit named is `x`, the others are kept. -/
theorem getLsbD_copyBit (x : Bool) (v : Byte) (b k : BitNo) :
    (if x then setBit v b.val else clearBit v b.val).getLsbD k.val = if k = b then x else v.getLsbD k.val := by
  cases x
  · rw [if_neg Bool.false_ne_true, getLsbD_clearBit]
    by_cases hk : k = b <;> simp [hk]
  · rw [if_pos rfl, getLsbD_setBit]
    by_cases hk : k = b <;> simp [hk]

/-! ### The answer of an instruction on one register, or on the flags -/

section
variable {c : CycCase} {d : Reg} {n : Nat} {s : State} {l : List BitNo}

/-- An 8-bit instruction whose result meets `P` and whose result and flags meet `V`. -/
theorem answers_writeAlu_result {x : Alu 8} {P : Byte → Prop} {V : Byte → Flags → Prop} (hp : P x.result)
    (hv : V x.result x.flags) (hl : ∀ k ∉ l, x.flags.get k = s.flags.get k) (hn : cycDefault c = n) :
    ∃ t, answer (writeAlu c d x s) = .next t ∧ P (t.reg d) ∧ V (t.reg d) t.flags
      ∧ flagsKept l s t ∧ onlyRegs [d] s t ∧ movedOn 1 c n s t := by
  obtain ⟨t, ht, ⟨hpt, hvt⟩, hkept⟩ := answers_writeAlu (d := d) (P := fun r f => P r ∧ V r f) ⟨hp, hv⟩ hl hn
  exact ⟨t, ht, hpt, hvt, hkept⟩

theorem answers_logicFlags {r : Byte} {P : Byte → Prop} (hp : P r) (hn : cycDefault c = n) :
    ∃ t, answer (writeAlu c d (logicFlags r s.flags) s) = .next t ∧ P (t.reg d) ∧ logicVerdict (t.reg d) t.flags
      ∧ flagsKept [1, 2, 3, 4] s t ∧ onlyRegs [d] s t ∧ movedOn 1 c n s t :=
  answers_writeAlu_result hp (logicFlags_verdict r s.flags) (Flags.get_of_not_logic rfl rfl rfl rfl) hn

theorem answers_shiftFlags {a r : Byte} {P : Byte → Prop} (hp : P r) (hn : cycDefault c = n) :
    ∃ t, answer (writeAlu c d (shiftFlags r (a.getLsbD 0) s.flags) s) = .next t ∧ P (t.reg d)
      ∧ shiftVerdict (t.reg d) (decide (a.toNat % 2 = 1)) t.flags
      ∧ flagsKept [0, 1, 2, 3, 4] s t ∧ onlyRegs [d] s t ∧ movedOn 1 c n s t := by
  rw [getLsbD_zero_eq_odd]
  exact answers_writeAlu_result (V := fun r => shiftVerdict r _) hp (shiftFlags_verdict r _ s.flags)
    (Flags.get_of_not_shift rfl rfl rfl) hn

theorem answers_setFlags {f : Flags} {P : Flags → Prop} (hp : P f) (hl : ∀ k ∉ l, f.get k = s.flags.get k)
    (hn : cycDefault c = n) :
    ∃ t, answer ((s.setFlags f).advance 1 (s.cyc c)) = .next t ∧ P t.flags
      ∧ flagsKept l s t ∧ onlyRegs [] s t ∧ movedOn 1 c n s t :=
  ⟨_, rfl, hp, hl, ⟨fun _ _ => rfl, rfl, memKept_refl s, systemKept_refl s⟩, rfl, charged_of_default hn rfl⟩

theorem answers_setReg {v : Byte} {P : Byte → Prop} (hp : P v) (hn : cycDefault c = n) :
    ∃ t, answer ((s.setReg d v).advance 1 (s.cyc c)) = .next t ∧ P (t.reg d)
      ∧ t.flags = s.flags ∧ onlyRegs [d] s t ∧ movedOn 1 c n s t :=
  ⟨_, rfl, (s.reg_setReg_same d v).symm ▸ hp, rfl,
    ⟨s.regsKept_setReg d v, rfl, memKept_refl s, systemKept_refl s⟩, rfl, charged_of_default hn rfl⟩

end

/-! ### The families -/

/-- Settles O25: each result is the operation bit by bit, and COM's is 255 less the operand; the flags are those of R150, with
C set by COM. -/
theorem logicFamily : Obligations.LogicFamily := by
  refine ⟨fun d r s => answers_logicFlags (bitwise_and (s.reg d) (s.reg r)) rfl,
    fun d k s => answers_logicFlags (bitwise_and (s.reg d) k) rfl,
    fun d r s => answers_logicFlags (bitwise_or (s.reg d) (s.reg r)) rfl,
    fun d k s => answers_logicFlags (bitwise_or (s.reg d) k) rfl,
    fun d r s => answers_logicFlags (bitwise_xor (s.reg d) (s.reg r)) rfl, fun d s => ?_⟩
  obtain ⟨t, ht, hr, ⟨hv, hc⟩, hkept⟩ := answers_writeAlu_result (c := .com) (d := d) (s := s)
    (P := fun r => r.toNat = 255 - (s.reg d).toNat) (V := fun r f => logicVerdict r f ∧ f.c = true)
    (comFlags_toNat (s.reg d) s.flags) (comFlags_verdict _ _) (Flags.get_of_not_shift rfl rfl rfl) rfl
  exact ⟨t, ht, hr, hv, hc, hkept⟩

/-- Settles O26: what each shift makes of the number, with the flags of R157. -/
theorem shiftFamily : Obligations.ShiftFamily :=
  ⟨fun d s => answers_shiftFlags (P := fun r => r.toNat = (s.reg d).toNat / 2) (BitVec.toNat_ushiftRight _ _) rfl,
    fun d s => answers_shiftFlags (P := fun r => r.toNat = (s.reg d).toNat / 2 + 128 * s.flags.c.toNat)
      (toNat_rotateIn _ _) rfl,
    fun d s => answers_shiftFlags (P := fun r => r.toInt = (s.reg d).toInt / 2) (toInt_arithmeticShift _) rfl⟩

/-- Settles O27: SWAP and BLD write one register, BSET, BCLR and BST one flag. -/
theorem bitFamily : Obligations.BitFamily :=
  ⟨fun d s => answers_setReg (P := fun r => r.toNat = (s.reg d).toNat % 16 * 16 + (s.reg d).toNat / 16)
      (toNat_swapNibbles _) rfl,
    fun f s => answers_setFlags (P := fun g => g.get f = true) ((s.flags.get_put f f true).trans (if_pos rfl))
      (s.flags.get_put_other f true) rfl,
    fun f s => answers_setFlags (P := fun g => g.get f = false) ((s.flags.get_put f f false).trans (if_pos rfl))
      (s.flags.get_put_other f false) rfl,
    fun d b s => answers_setFlags (P := fun g => g.t = (s.reg d).getLsbD b.val) rfl (s.flags.get_put_other 6 _) rfl,
    fun d b s => answers_setReg
      (P := fun r => ∀ k : BitNo, r.getLsbD k.val = if k = b then s.flags.t else (s.reg d).getLsbD k.val)
      (getLsbD_copyBit s.flags.t (s.reg d) b) rfl⟩

/-! ### SBI and CBI (R166, R167)

Their addresses are 0x20 to 0x3F. Of these EECR, the last, is refreshed and reacts; the ports tell the host; the others are
plain bytes. -/

/-- A write that no half of SP sees tells the host of a port's pin change, and of nothing else (20_memory.md R81). -/
theorem reactHost_port {a : Nat} (old v : Byte) (s : State) (h1 : a ≠ aSPL) (h2 : a ≠ aSPH) :
    reactHost a old v s
      = { s with hostLog := (portAt a).elim s.hostLog fun p => .pinChange p old v :: s.hostLog } := by
  unfold reactHost
  cases portAt a with
  | none => exact if_neg (not_or_intro h1 h2)
  | some p => rfl

theorem ioAddress5_ne_sreg (a : BitVec 5) : ioAddress5 a ≠ aSREG := by
  have hlt := a.isLt
  unfold ioAddress5 ioStart aSREG
  omega

/-- The state after a store of `v` at `a` that has no effect but a port's pin-change callback. -/
def State.storeLowIo (s : State) (a : Nat) (v : Byte) : State :=
  { s.setByte a v with hostLog := (portAt a).elim s.hostLog fun p => .pinChange p (s.byteAt a) v :: s.hostLog }

/-- An I/O address SBI and CBI reach, but for EECR. -/
def lowIo (a : Nat) : Prop := 32 ≤ a ∧ a < aEECR

theorem lowIo_ioAddress5 {a : BitVec 5} (h : a ≠ 0x1F) : lowIo (ioAddress5 a) := by
  have hne : a.toNat ≠ 31 := fun e => h (BitVec.eq_of_toNat_eq e)
  have hlt := a.isLt
  unfold lowIo ioAddress5 ioStart aEECR
  omega

section
variable {a : Nat} {s : State}

theorem lowIo.ne (h : lowIo a) {b : Nat} (hb : aEECR ≤ b) : a ≠ b := (h.2.trans_le hb).ne

theorem lowIo.plainHome (h : lowIo a) : plainHome a := ⟨h.1, h.ne (by decide), h.ne (by decide), h.ne (by decide)⟩

theorem memRead_lowIo (h : lowIo a) : memRead a s = .ok (s.byteAt a, s) := by
  have hread : ¬ hookedRead a := by
    rintro (e | e | e | e) <;> exact h.ne (by decide) e
  rw [memRead_plain s (h.2.trans (by decide)) hread, s.rawRead_plain h.plainHome]

theorem memWrite_lowIo (v : Byte) (h : lowIo a) : memWrite a v s = .ok (s.storeLowIo a v) := by
  obtain ⟨-, hrefresh, -⟩ := memRead_eq_ok.mp (memRead_lowIo (s := s) h)
  refine memWrite_eq_ok.mpr ⟨h.2.trans (by decide), s, hrefresh, ?_⟩
  rw [react, if_neg (h.ne (by decide)), if_neg (h.ne (by decide)), if_neg (h.ne (by decide)), if_neg (h.ne (by decide)),
    if_neg (h.ne (by decide)), if_neg (h.ne (by decide)), reactHost_port _ _ _ (h.ne (by decide)) (h.ne (by decide)),
    s.rawRead_plain h.plainHome, s.rawWrite_plain v h.plainHome]
  rfl

end

section
variable {a n : Nat} {c : CycCase} {f : Byte → Byte} {s : State}

/-- Where the read and the write back are answered they are the whole effect but for pc and cycles. -/
theorem answers_modifyIo {m w : State} {v : Byte} (hr : memRead a s = .ok (v, m)) (hw : memWrite a (f v) m = .ok w)
    (ha : a ≠ aSREG) (hn : cycDefault c = n) :
    ∃ t, outcome (modifyIo c a f s) = .next t ∧ t.flags = s.flags ∧ onlyRegs [] w t ∧ movedOn 1 c n s t := by
  have hframe := storeFrame_trans (memRead_frame hr) (memWrite_frame hw)
  obtain ⟨-, hflags, -⟩ := memWrite_core hw
  refine ⟨w.advance 1 (s.cyc c), outcome_eq_next.mpr (modifyIo_eq_ok.mpr ⟨v, m, w, hr, hw, rfl⟩),
    (hflags ha).trans (quiet_flags (memRead_quiet hr)), ⟨fun _ _ => rfl, rfl, memKept_refl w, systemKept_refl w⟩, ?_,
    charged_of_default hn ?_⟩
  · rw [State.advance_pc, storeFrame_pc hframe]
  · rw [State.advance_cycles, storeFrame_cycles hframe]
    rfl

/-- Below EECR the change is the one byte's, and a port's pin change is logged. -/
theorem answers_modifyIo_lowIo {x : Byte} {P : Byte → Prop} (h : lowIo a) (hx : x = s.byteAt a) (hp : P (f x))
    (hn : cycDefault c = n) :
    ∃ t, outcome (modifyIo c a f s) = .next t ∧ P (t.byteAt a)
      ∧ bytesKept [a] s t ∧ regsKept [] s t ∧ t.sp = s.sp ∧ t.flags = s.flags ∧ movedOn 1 c n s t
      ∧ t.hostLog = (portAt a).elim s.hostLog fun p => .pinChange p x (t.byteAt a) :: s.hostLog := by
  subst hx
  have hbyte : ((s.storeLowIo a (f (s.byteAt a))).advance 1 (s.cyc c)).byteAt a = f (s.byteAt a) :=
    s.byteAt_setByte_same a _
  refine ⟨_, outcome_eq_next.mpr (modifyIo_eq_ok.mpr ⟨_, s, _, memRead_lowIo h, memWrite_lowIo _ h, rfl⟩),
    hbyte.symm ▸ hp, bytesKept_setByte s a _, fun _ _ => rfl, rfl, rfl, ⟨rfl, charged_of_default hn rfl⟩, ?_⟩
  rw [hbyte]
  rfl

end

/-- Settles O48: the access of one byte, answered wherever its read and its write are, and at every address but EECR the write
of one bit. -/
theorem ioBitWrites : Obligations.IoBitWrites :=
  ⟨fun a _ _ _ _ _ hr hw => answers_modifyIo hr hw (ioAddress5_ne_sreg a) rfl,
    fun a _ _ _ _ _ hr hw => answers_modifyIo hr hw (ioAddress5_ne_sreg a) rfl,
    fun _ b _ x ha hx => answers_modifyIo_lowIo
      (P := fun r => ∀ k : BitNo, r.getLsbD k.val = (x.getLsbD k.val || decide (k = b)))
      (lowIo_ioAddress5 ha) hx (getLsbD_setBit x b) rfl,
    fun _ b _ x ha hx => answers_modifyIo_lowIo
      (P := fun r => ∀ k : BitNo, r.getLsbD k.val = (x.getLsbD k.val && !decide (k = b)))
      (lowIo_ioAddress5 ha) hx (getLsbD_clearBit x b) rfl⟩

end Sys2Proof.Machine
end

/-! PROOF. The multiply instructions (spec/42_multiply.md): the product patterns are the exact products, what their doubling
gives, the answer of an instruction that writes a product to R1:R0, and the two families assembled from these (O28, O29). -/

section
namespace Sys2Proof.Machine

/-! ### The product patterns in numbers (R170)

Every product fits sixteen bits in its own signedness, so the pattern loses nothing. -/

theorem toNat_productUU (a b : Byte) : (productUU a b).toNat = a.toNat * b.toNat := by
  have hlt : a.toNat * b.toNat < 256 * 256 := Nat.mul_lt_mul'' a.isLt b.isLt
  exact (BitVec.toNat_ofNat _ _).trans (Nat.mod_eq_of_lt hlt)

theorem toInt_productSS (a b : Byte) : (productSS a b).toInt = a.toInt * b.toInt := by
  have hlo : -16384 ≤ a.toInt * b.toInt := BitVec.le_toInt_mul_toInt
  have hhi : a.toInt * b.toInt ≤ 16384 := BitVec.toInt_mul_toInt_le
  exact BitVec.toInt_ofInt_eq_self (by decide) (by omega) (by omega)

theorem toInt_productSU (a b : Byte) : (productSU a b).toInt = a.toInt * b.toNat := by
  have ha := toInt_byte a
  have hb := b.isLt
  have hlo : -128 * b.toNat ≤ a.toInt * b.toNat := Int.mul_le_mul_of_nonneg_right (by omega) (by omega)
  have hhi : a.toInt * b.toNat ≤ 127 * b.toNat := Int.mul_le_mul_of_nonneg_right (by omega) (by omega)
  exact BitVec.toInt_ofInt_eq_self (by decide) (by omega) (by omega)

/-! ### The product shifted left by one (R170) -/

theorem fmulFlags_toNat (p : Word) (f : Flags) : (fmulFlags p f).result.toNat = 2 * p.toNat % 65536 := by
  rw [fmulFlags, BitVec.toNat_ofNat, Nat.mul_comm]

/-- Modulo 65536 twice the pattern is twice the signed product as well. -/
theorem fmulFlags_toNat_signed (p : Word) (f : Flags) : ((fmulFlags p f).result.toNat : Int) = 2 * p.toInt % 65536 := by
  have := toInt_word p
  rw [fmulFlags_toNat]
  omega

/-! ### The answer of an instruction that writes a product to R1:R0 -/

section
variable {c : CycCase} {n : Nat} {s : State} {p : Word}

/-- A plain multiply whose product pattern meets `P`. -/
theorem answers_mulFlags {P : Word → Prop} (hp : P p) (hn : cycDefault c = n) :
    ∃ t, answer (writeProduct c (mulFlags p s.flags) s) = .next t ∧ P (t.pair 0)
      ∧ t.flags.c = decide (32768 ≤ (t.pair 0).toNat) ∧ t.flags.z = decide ((t.pair 0).toNat = 0)
      ∧ flagsKept [0, 1] s t ∧ onlyRegs [0, 1] s t ∧ movedOn 1 c n s t := by
  obtain ⟨t, ht, ⟨hpt, hc, hz⟩, hkept⟩ := answers_writeAluPair (d := 0) (x := mulFlags p s.flags)
    (P := fun r f => P r ∧ f.c = decide (32768 ≤ r.toNat) ∧ f.z = decide (r.toNat = 0))
    ⟨hp, msb_word p, decide_eq_zero p⟩ (Flags.get_of_not_mul s.flags _ _) hn
  exact ⟨t, ht, hpt, hc, hz, hkept⟩

/-- A fractional multiply whose doubled product pattern meets `P`, `b` being bit 15 of the product. -/
theorem answers_fmulFlags {P : Word → Prop} {b : Bool} (hp : P (fmulFlags p s.flags).result) (hb : p.msb = b)
    (hn : cycDefault c = n) :
    ∃ t, answer (writeProduct c (fmulFlags p s.flags) s) = .next t ∧ P (t.pair 0)
      ∧ t.flags.c = b ∧ t.flags.z = decide ((t.pair 0).toNat = 0)
      ∧ flagsKept [0, 1] s t ∧ onlyRegs [0, 1] s t ∧ movedOn 1 c n s t := by
  obtain ⟨t, ht, ⟨hpt, hc, hz⟩, hkept⟩ := answers_writeAluPair (d := 0) (x := fmulFlags p s.flags)
    (P := fun r f => P r ∧ f.c = b ∧ f.z = decide (r.toNat = 0))
    ⟨hp, hb, decide_eq_zero _⟩ (Flags.get_of_not_mul s.flags _ _) hn
  exact ⟨t, ht, hpt, hc, hz, hkept⟩

/-- A fractional multiply whose product, read as signed, is exactly `x`. -/
theorem answers_fmulFlags_signed {x : Int} (hx : p.toInt = x) (hn : cycDefault c = n) :
    ∃ t, answer (writeProduct c (fmulFlags p s.flags) s) = .next t ∧ ((t.pair 0).toNat : Int) = 2 * x % 65536
      ∧ t.flags.c = decide (x < 0) ∧ t.flags.z = decide ((t.pair 0).toNat = 0)
      ∧ flagsKept [0, 1] s t ∧ onlyRegs [0, 1] s t ∧ movedOn 1 c n s t := by
  subst hx
  exact answers_fmulFlags (P := fun r => (r.toNat : Int) = 2 * p.toInt % 65536) (fmulFlags_toNat_signed p _)
    BitVec.msb_eq_toInt hn

end

/-! ### The families -/

/-- Settles O28: each product pattern is the exact product, and the flags are those of the pattern. -/
theorem plainMultiplies : Obligations.PlainMultiplies :=
  ⟨fun d r s => answers_mulFlags (P := fun p => p.toNat = (s.reg d).toNat * (s.reg r).toNat) (toNat_productUU _ _) rfl,
    fun d r s => answers_mulFlags (P := fun p => p.toInt = (s.reg d).toInt * (s.reg r).toInt) (toInt_productSS _ _) rfl,
    fun d r s => answers_mulFlags (P := fun p => p.toInt = (s.reg d).toInt * (s.reg r).toNat) (toInt_productSU _ _) rfl⟩

/-- Settles O29: the exact product, doubled; C is its size where it is unsigned and its sign where it is signed. -/
theorem fractionalMultiplies : Obligations.FractionalMultiplies := by
  refine ⟨fun d r s => ?_, fun d r s => answers_fmulFlags_signed (toInt_productSS _ _) rfl,
    fun d r s => answers_fmulFlags_signed (toInt_productSU _ _) rfl⟩
  rw [← toNat_productUU]
  exact answers_fmulFlags (P := fun q => q.toNat = 2 * (productUU (s.reg d) (s.reg r)).toNat % 65536)
    (fmulFlags_toNat _ _) (msb_word _) rfl

end Sys2Proof.Machine
end

/-! PROOF. The jumps and the skips (spec/43_branch_skip.md): a relative target in numbers (R180), what an answered skip is
(R185), with the answers of the jumps (O30), of the skips on registers (O32) and of those on an I/O byte (O33). -/

section
namespace Sys2Proof.Machine

/-! ### The answer of an instruction that only moves pc -/

theorem onlyRegs_jump (s : State) (p : Word) (n : Nat) : onlyRegs [] s (s.jump p n) :=
  ⟨fun _ _ => rfl, rfl, memKept_refl s, systemKept_refl s⟩

/-- A jump whose target meets `P`. -/
theorem answers_jump {c : CycCase} {n : Nat} {s : State} {p : Word} {P : Word → Prop} (hp : P p) (hn : cycDefault c = n) :
    ∃ t, answer (s.jump p (s.cyc c)) = .next t ∧ P t.pc ∧ charged c n s t ∧ t.flags = s.flags ∧ onlyRegs [] s t :=
  ⟨_, rfl, hp, charged_of_default hn rfl, rfl, onlyRegs_jump s p _⟩

/-! ### Jumps (R180 to R182) -/

/-- The offset's sign is kept in the widening, and the sum wraps at 65536. -/
theorem toNat_relTarget {w : Nat} (k : BitVec w) (s : State) :
    ((relTarget k s).toNat : Int) = (s.pc.toNat + 1 + k.toInt) % 65536 := by
  have hk : ((k.signExtend 16).toNat : Int) = k.toInt % 65536 := by
    rw [BitVec.signExtend, BitVec.toNat_ofInt]
    omega
  have h1 : (1 : Word).toNat = 1 := rfl
  rw [relTarget, BitVec.toNat_add, BitVec.toNat_add, h1]
  omega

theorem exec_jmp_of_lt {k : BitVec 22} (h : k.toNat < 65536) (s : State) :
    exec (.jmp k) s = answer (s.jump (BitVec.ofNat 16 k.toNat) (s.cyc .jmp)) := by
  change execJmp k s = _
  rw [execJmp, checkTarget_eq_ok.mpr ⟨h, rfl⟩]
  rfl

theorem exec_jmp_of_ge {k : BitVec 22} (h : 65536 ≤ k.toNat) (s : State) :
    exec (.jmp k) s = .fault (.outOfRangeFlash k.toNat) := by
  change execJmp k s = _
  rw [execJmp, checkTarget_stop (Nat.not_lt.mpr h)]
  rfl

/-- Settles O30: each answer is a jump, to the relative target, to Z, or to a target that fits 16 bits. -/
theorem jumps : Obligations.Jumps := by
  refine ⟨fun k s => answers_jump (P := fun p => (p.toNat : Int) = _) (toNat_relTarget k s) rfl,
    fun s => answers_jump (P := fun p => p = word16 (s.reg 31) (s.reg 30)) rfl rfl, fun k s h => ?_,
    fun _ s h => exec_jmp_of_ge h s⟩
  rw [exec_jmp_of_lt h]
  exact answers_jump (P := fun p => p.toNat = k.toNat) ((BitVec.toNat_ofNat _ _).trans (Nat.mod_eq_of_lt h)) rfl

/-! ### Skips (R185)

A skip instruction reads a register, or an I/O byte with its hook, and then skips in the state `m` that the read leaves: `m`
is `s` itself for a register, and differs from `s` quietly for an I/O byte. -/

/-- A read with its hook moves neither pc nor flash, so the instruction skipped is the same. -/
theorem skipWords_of_quiet {s m : State} (h : quiet s m) (b : Bool) : skipWords b m = skipWords b s :=
  (congrArg (skipWords b) h).trans rfl

section
variable {k : Nat → CycCase} {b : Bool} {s m : State}

/-- A skip not taken, or taken inside flash, moves on by its words and charges the case of the words it skips. -/
theorem skipIf_eq_advance (h : b = true → s.pc.toNat + 1 < Config.flashWords) :
    skipIf k b s = .ok (s.advance (skipWords b s) (s.cyc (k (skipWords b s - 1)))) := by
  cases b with
  | false => exact skipIf_eq_ok.mpr (.inl ⟨rfl, rfl⟩)
  | true =>
    refine skipIf_eq_ok.mpr (.inr ⟨rfl, nextWord s, State.flashWord_eq_ok.mpr ⟨h rfl, rfl⟩, ?_⟩)
    cases hw : is2Word (nextWord s) <;> simp [skipWords, hw]

theorem answers_skipIf (hq : quiet s m) (hk : ∀ n, cycDefault (k n) = cycSkip n)
    (h : b = true → s.pc.toNat + 1 < Config.flashWords) :
    ∃ t, outcome (skipIf k b m) = .next t ∧ t.flags = s.flags ∧ onlyRegs [] m t
      ∧ movedOn (skipWords b s) (k (skipWords b s - 1)) (skipWords b s) s t := by
  have hcount : cycSkip (skipWords b s - 1) = skipWords b s := by
    unfold cycSkip skipWords
    split_ifs <;> rfl
  rw [skipIf_eq_advance (by rwa [quiet_pc hq]), skipWords_of_quiet hq]
  refine ⟨_, rfl, (State.jump_flags m _ _).trans (quiet_flags hq), onlyRegs_jump m _ _, ?_,
    charged_of_default ((hk _).trans hcount) ?_⟩
  · rw [State.advance_pc, quiet_pc hq]
  · rw [State.advance_cycles, State.cyc, quiet_cycles hq, quiet_params hq]

theorem skipIf_faults (hq : quiet s m) (hb : b = true) (h : Config.flashWords ≤ s.pc.toNat + 1) :
    outcome (skipIf k b m) = .fault (.outOfRangeFlash (s.pc.toNat + 1)) := by
  subst hb
  rw [← quiet_pc hq] at h ⊢
  rw [skipIf_stop (Nat.not_lt.mpr h), outcome_raise]

end

/-- Settles O32: each is a skip in the state it starts from. -/
theorem registerSkips : Obligations.RegisterSkips := by
  refine ⟨?_, ?_, ?_⟩ <;> rintro x y s c rfl
  all_goals exact ⟨answers_skipIf (quiet_refl s) fun _ => rfl, skipIf_faults (quiet_refl s)⟩

/-! ### Skips on an I/O byte (R189, R190) -/

theorem ioAddress5_lt_tcnt0 (a : BitVec 5) : ioAddress5 a < aTCNT0 := by
  have hlt := a.isLt
  unfold ioAddress5 ioStart aTCNT0
  omega

/-- These addresses lie in the data space and below timer0's counter, so no divisor is needed to read them. -/
theorem memRead_ioAddress5_answers (a : BitVec 5) (s : State) : ∃ v m, memRead (ioAddress5 a) s = .ok (v, m) :=
  memRead_ok_iff.mpr ⟨(ioAddress5_lt_tcnt0 a).trans (by decide), fun e => absurd e (ioAddress5_lt_tcnt0 a).ne⟩

section
variable {a : BitVec 5} {s m : State} {v : Byte} (hr : memRead (ioAddress5 a) s = .ok (v, m)) (b : BitNo)
include hr

theorem exec_sbic_of_read : exec (.sbic a b) s = outcome (skipIf .sbic (!v.getLsbD b.val) m) := by
  change execSbic a b s = _
  rw [execSbic, hr]
  rfl

theorem exec_sbis_of_read : exec (.sbis a b) s = outcome (skipIf .sbis (v.getLsbD b.val) m) := by
  change execSbis a b s = _
  rw [execSbis, hr]
  rfl

end

/-- Settles O33: each is a skip in the state the read leaves, and the read is always answered. -/
theorem ioSkips : Obligations.IoSkips := by
  refine ⟨fun a b s m v hr h => ?_, fun a b s m v hr h => ?_, memRead_ioAddress5_answers,
    fun a b s m v hr h => ⟨fun hv => ?_, fun hv => ?_⟩⟩
  · rw [exec_sbic_of_read hr]
    exact answers_skipIf (memRead_quiet hr) (fun _ => rfl) (fun e => h (by simpa using e))
  · rw [exec_sbis_of_read hr]
    exact answers_skipIf (memRead_quiet hr) (fun _ => rfl) h
  · exact (exec_sbic_of_read hr b).trans (skipIf_faults (memRead_quiet hr) (congrArg not hv) h)
  · exact (exec_sbis_of_read hr b).trans (skipIf_faults (memRead_quiet hr) hv h)

end Sys2Proof.Machine
end

/-! PROOF. The call stack (spec/44_call_return_stack.md): in the window the shared operations answer and outside they stop with
the first address outside (R204), with the calls (O34), the returns (O35), PUSH and POP (O36) and their faults (O37). -/

section
namespace Sys2Proof.Machine

/-! ### Addresses next to SP, modulo 65536 (R204) -/

section
variable {w : Word}

theorem toNat_sub_one (h : 1 ≤ w.toNat) : (w - 1).toNat = w.toNat - 1 := by
  have := w.isLt
  bv_omega

theorem toNat_add_one (w : Word) : (w + 1).toNat = (w.toNat + 1) % 65536 := BitVec.toNat_add w 1

theorem toNat_add_two (w : Word) : (w + 2).toNat = (w.toNat + 2) % 65536 := BitVec.toNat_add w 2

theorem inStack_eq_false_iff : inStack w = false ↔ w.toNat < 0x100 ∨ 0xB00 ≤ w.toNat := by
  rw [← Bool.not_eq_true, inStack_iff]
  omega

end

/-! ### The state `PushAddr` answers inside the window (R195) -/

/-- The state after `PushAddr(a)` where SP - 1 does not wrap. -/
def State.pushed (a : Word) (s : State) : State :=
  { s with
    data := (s.data.write s.sp.toNat (lo8 a)).write (s.sp.toNat - 1) (hi8 a)
    sp := s.sp - 2
    hostLog := notified .callStackPush s }

theorem pushAddr_eq_pushed {s : State} (a : Word) (hlo : 0x101 ≤ s.sp.toNat) (hhi : s.sp.toNat < 0xB00) :
    pushAddr a s = .ok (s.pushed a) := by
  have hsub : (s.sp - 1).toNat = s.sp.toNat - 1 := toNat_sub_one (by omega)
  refine pushAddr_eq_ok.mpr ⟨(inStack_iff s.sp).mpr (by omega), (inStack_iff (s.sp - 1)).mpr (by omega), ?_⟩
  rw [hsub]
  rfl

/-- The two bytes are the pushed word, its high byte at the lower address. -/
theorem State.word16_pushed (s : State) (a : Word) (h : 1 ≤ s.sp.toNat) :
    word16 ((s.pushed a).byteAt (s.sp.toNat - 1)) ((s.pushed a).byteAt s.sp.toNat) = a := by
  have hne : s.sp.toNat ≠ s.sp.toNat - 1 := by omega
  simp [State.byteAt, State.pushed, Memory.read_write_other _ _ hne]

theorem State.bytesKept_pushed (s : State) (a : Word) : bytesKept [s.sp.toNat, s.sp.toNat - 1] s (s.pushed a) := by
  refine ⟨fun b hb => ?_, fun _ => rfl, fun _ => rfl⟩
  simp only [List.mem_cons, List.not_mem_nil, or_false, not_or] at hb
  obtain ⟨hb0, hb1⟩ := hb
  exact (Memory.read_write_other _ _ hb1).trans (Memory.read_write_other _ _ hb0)

/-! ### Where the stack operations stop (R195, R196, R202, R203) -/

section
variable {s : State}

theorem pushAddr_stop_low (a : Word) (h : inStack s.sp = false) : pushAddr a s = raise (.outOfRangeStack s.sp.toNat) := by
  rw [pushAddr, checkStack_stop h]
  rfl

theorem pushAddr_stop_high (a : Word) (h : inStack s.sp = true) (h1 : inStack (s.sp - 1) = false) :
    pushAddr a s = raise (.outOfRangeStack (s.sp - 1).toNat) := by
  rw [pushAddr, checkStack_ok h, checkStack_stop h1]
  rfl

theorem popAddr_stop_high (h : inStack (s.sp + 1) = false) :
    popAddr s = raise (.outOfRangeStack (s.sp + 1).toNat) := by
  rw [popAddr, checkStack_stop h]
  rfl

theorem popAddr_stop_low (h : inStack (s.sp + 1) = true) (h2 : inStack (s.sp + 2) = false) :
    popAddr s = raise (.outOfRangeStack (s.sp + 2).toNat) := by
  rw [popAddr, checkStack_ok h, checkStack_stop h2]
  rfl

theorem pushByte_stop (v : Byte) (h : inStack s.sp = false) : pushByte v s = raise (.outOfRangeStack s.sp.toNat) := by
  rw [pushByte, checkStack_stop h]
  rfl

theorem popByte_stop (h : inStack (s.sp + 1) = false) : popByte s = raise (.outOfRangeStack (s.sp + 1).toNat) := by
  rw [popByte, checkStack_stop h]
  rfl

end

/-! ### An instruction follows the operation it begins with -/

theorem outcome_bind_of_ok {α : Type} {x : Res α} {a : α} (f : α → Res State) (h : x = .ok a) :
    outcome (x >>= f) = outcome (f a) := by
  rw [h, ok_bind]

theorem outcome_bind_of_raise {α : Type} {x : Res α} {e : Fault} (f : α → Res State) (h : x = raise e) :
    outcome (x >>= f) = .fault e := by
  rw [h, raise_bind, outcome_raise]

/-! ### The calls (R197 to R199) -/

/-- What the three calls do after CALL's check of its target: push `a`, then jump to `p`. -/
def callTo (c : CycCase) (a p : Word) (s : State) : Host.Outcome State Fault Refusal :=
  outcome (pushAddr a s >>= fun u => .ok (u.jump p (s.cyc c)))

section
variable {c : CycCase} {s : State}

theorem exec_rcall (k : BitVec 12) (s : State) : exec (.rcall k) s = callTo .rcall (s.pc + 1) (relTarget k s) s := rfl

theorem exec_icall (s : State) : exec .icall s = callTo .icall (s.pc + 1) (s.ptr .z) s := rfl

theorem exec_call_of_lt {k : BitVec 22} (h : k.toNat < 65536) (s : State) :
    exec (.call k) s = callTo .call (s.pc + 2) (BitVec.ofNat 16 k.toNat) s := by
  change execCall k s = _
  rw [execCall, checkTarget_eq_ok.mpr ⟨h, rfl⟩]
  rfl

theorem exec_call_of_ge {k : BitVec 22} (h : 65536 ≤ k.toNat) (s : State) :
    exec (.call k) s = .fault (.outOfRangeFlash k.toNat) :=
  outcome_bind_of_raise _ (checkTarget_stop (Nat.not_lt.mpr h))

theorem callTo_faults_low (a p : Word) (h : inStack s.sp = false) :
    callTo c a p s = .fault (.outOfRangeStack s.sp.toNat) :=
  outcome_bind_of_raise _ (pushAddr_stop_low a h)

theorem callTo_faults_high (a p : Word) (h : inStack s.sp = true) (h1 : inStack (s.sp - 1) = false) :
    callTo c a p s = .fault (.outOfRangeStack (s.sp - 1).toNat) :=
  outcome_bind_of_raise _ (pushAddr_stop_high a h h1)

/-- A call inside the window to a target that meets `P`. -/
theorem answers_callTo {n : Nat} {a p : Word} {P : Word → Prop} (hlo : 0x101 ≤ s.sp.toNat) (hhi : s.sp.toNat < 0xB00)
    (hp : P p) (hn : cycDefault c = n) :
    ∃ t, callTo c a p s = .next t ∧ P t.pc ∧ charged c n s t
      ∧ word16 (t.byteAt (s.sp.toNat - 1)) (t.byteAt s.sp.toNat) = a ∧ t.sp = s.sp - 2
      ∧ bytesKept [s.sp.toNat, s.sp.toNat - 1] s t ∧ regsKept [] s t ∧ t.flags = s.flags ∧ schedulerKept s t
      ∧ t.hostLog = notified .callStackPush s :=
  ⟨(s.pushed a).jump p (s.cyc c), outcome_bind_of_ok _ (pushAddr_eq_pushed a hlo hhi), hp, charged_of_default hn rfl,
    s.word16_pushed a (by omega), rfl, s.bytesKept_pushed a, fun _ _ => rfl, rfl,
    ⟨rfl, rfl, rfl, rfl, rfl, rfl, rfl, rfl⟩, rfl⟩

end

/-- Settles O34: each call pushes its return address and jumps, to the relative target, to Z, or to a target that fits
16 bits. -/
theorem calls : Obligations.Calls := by
  refine ⟨fun k s hlo hhi => answers_callTo (P := fun p => (p.toNat : Int) = _) hlo hhi (toNat_relTarget k s) rfl,
    fun s hlo hhi => answers_callTo (P := fun p => p = word16 (s.reg 31) (s.reg 30)) hlo hhi rfl rfl,
    fun k s hk hlo hhi => ?_⟩
  rw [exec_call_of_lt hk]
  exact answers_callTo (P := fun p => p.toNat = k.toNat) hlo hhi
    ((BitVec.toNat_ofNat _ _).trans (Nat.mod_eq_of_lt hk)) rfl

/-! ### The returns (R200, R201) -/

section
variable {s : State}

/-- Both bytes above SP are in the window, and their addresses do not wrap. -/
theorem popAddr_window (hlo : 0xFF ≤ s.sp.toNat) (hhi : s.sp.toNat ≤ 0xAFD) :
    (s.sp + 1).toNat = s.sp.toNat + 1 ∧ (s.sp + 2).toNat = s.sp.toNat + 2
      ∧ inStack (s.sp + 1) = true ∧ inStack (s.sp + 2) = true := by
  have h1 := toNat_add_one s.sp
  have h2 := toNat_add_two s.sp
  rw [inStack_iff, inStack_iff]
  omega

theorem exec_ret_of_pop {w : Word} {t : State} (h : popAddr s = .ok (w, t)) :
    exec .ret s = .next (t.jump w (s.cyc .ret)) :=
  outcome_bind_of_ok _ h

theorem exec_reti_of_return {t : State} (h : returnFromInterrupt s = .ok t) :
    exec .reti s = .next (t.jump t.pc (s.cyc .reti)) :=
  outcome_bind_of_ok _ h

theorem returns_fault {e : Fault} (h : popAddr s = raise e) : exec .ret s = .fault e ∧ exec .reti s = .fault e :=
  ⟨outcome_bind_of_raise _ h, outcome_bind_of_raise _ (by rw [returnFromInterrupt, h, raise_bind])⟩

end

/-- Settles O35: both pop the pc and jump; RETI sets I and clears the re-entrancy flag between. -/
theorem returns : Obligations.Returns := by
  refine ⟨fun s hlo hhi => ?_, fun s hlo hhi => ?_⟩ <;> obtain ⟨e1, e2, h1, h2⟩ := popAddr_window hlo hhi <;>
    rw [← e1, ← e2]
  · exact ⟨_, exec_ret_of_pop (popAddr_eq_ok.mpr ⟨h1, h2, rfl, rfl⟩), rfl, rfl, charged_of_default rfl rfl, rfl,
      fun _ _ => rfl, memKept_refl s, ⟨rfl, rfl, rfl, rfl, rfl, rfl, rfl, rfl⟩, rfl⟩
  · exact ⟨_, exec_reti_of_return (returnFromInterrupt_eq_ok.mpr ⟨h1, h2, rfl⟩), rfl, rfl, charged_of_default rfl rfl, rfl,
      Flags.get_put_other s.flags 7 true, fun _ _ => rfl, memKept_refl s, rfl, rfl, rfl, rfl, rfl, rfl, rfl, rfl, rfl⟩

/-! ### PUSH and POP (R202, R203) -/

section
variable {s : State}

theorem exec_push_of_push {r : Reg} {t : State} (h : pushByte (s.reg r) s = .ok t) :
    exec (.push r) s = .next (t.advance 1 (s.cyc .push)) :=
  outcome_bind_of_ok _ h

theorem exec_pop_of_pop {d : Reg} {v : Byte} {t : State} (h : popByte s = .ok (v, t)) :
    exec (.pop d) s = .next ((t.setReg d v).advance 1 (s.cyc .pop)) :=
  outcome_bind_of_ok _ h

end

/-- Settles O36: PUSH is the store of one byte, POP the write of one register, and SP moves by one. -/
theorem pushAndPop : Obligations.PushAndPop := by
  refine ⟨fun r s hlo hhi => ?_, fun d s hlo hhi => ?_⟩
  · have hw : inStack s.sp = true := (inStack_iff s.sp).mpr ⟨hlo, hhi⟩
    exact ⟨_, exec_push_of_push (pushByte_eq_ok.mpr ⟨hw, rfl⟩), s.byteAt_setByte_same _ _, rfl, bytesKept_setByte s _ _,
      fun _ _ => rfl, rfl, systemKept_refl s, rfl, charged_of_default rfl rfl⟩
  · have e1 : (s.sp + 1).toNat = s.sp.toNat + 1 := (toNat_add_one s.sp).trans (Nat.mod_eq_of_lt (by omega))
    have hw : inStack (s.sp + 1) = true := (inStack_iff (s.sp + 1)).mpr ⟨by omega, by omega⟩
    rw [← e1]
    exact ⟨_, exec_pop_of_pop (popByte_eq_ok.mpr ⟨hw, rfl, rfl⟩), s.reg_setReg_same d _, rfl, s.regsKept_setReg d _,
      memKept_refl s, rfl, systemKept_refl s, rfl, charged_of_default rfl rfl⟩

/-! ### Faults (R204) -/

/-- Settles O37: the operation an instruction begins with stops at the first address outside, CALL's target check before
its push. -/
theorem stackFaults : Obligations.StackFaults := by
  intro s
  have h1 := toNat_add_one s.sp
  have h2 := toNat_add_two s.sp
  refine ⟨fun h => ?_, fun h => ?_, fun k hk => exec_call_of_ge hk s, fun h => ?_, fun h => ?_⟩
  · have hout : inStack s.sp = false := inStack_eq_false_iff.mpr h
    exact ⟨fun r => outcome_bind_of_raise _ (pushByte_stop _ hout), fun k => callTo_faults_low _ _ hout,
      callTo_faults_low _ _ hout, fun k hk => (exec_call_of_lt hk s).trans (callTo_faults_low _ _ hout)⟩
  · have hin : inStack s.sp = true := (inStack_iff s.sp).mpr (by omega)
    have hsub : (s.sp - 1).toNat = 0xFF := by rw [toNat_sub_one (by omega), h]
    have hout : inStack (s.sp - 1) = false := inStack_eq_false_iff.mpr (by omega)
    have hf (c : CycCase) (a p : Word) : callTo c a p s = .fault (.outOfRangeStack 0xFF) :=
      hsub ▸ callTo_faults_high a p hin hout
    exact ⟨fun k => hf _ _ _, hf _ _ _, fun k hk => (exec_call_of_lt hk s).trans (hf _ _ _)⟩
  · have hout : inStack (s.sp + 1) = false := inStack_eq_false_iff.mpr (by omega)
    rw [← h1]
    exact ⟨fun d => outcome_bind_of_raise _ (popByte_stop hout), returns_fault (popAddr_stop_high hout)⟩
  · have hin : inStack (s.sp + 1) = true := (inStack_iff (s.sp + 1)).mpr (by omega)
    have hb : (s.sp + 2).toNat = 0xB00 := by omega
    have hout : inStack (s.sp + 2) = false := inStack_eq_false_iff.mpr (.inr hb.ge)
    exact returns_fault (hb ▸ popAddr_stop_low hin hout)

end Sys2Proof.Machine
end

/-! PROOF. The data transfer instructions (spec/45_data_transfer.md): the end of a load and of a store, as the state the access
leaves with registers written and pc moved on, with the answers of the moves (O39), the loads and stores without and with a
pointer update (O40 to O43), the loads from flash (O46) and the I/O transfers (O47). -/

section
namespace Sys2Proof.Machine

/-! ### Registers written after an access

`m` is the state the access leaves, `s` the state before it. -/

section
variable {s m u : State} {l : List Reg} {words n : Nat} {c : CycCase}

/-- An access leaves pc, cycles and the parameters, so an instruction that then writes registers alone moves on from where it
started. -/
theorem advance_frame (hm : storeFrame s m) (hu : u = { m with gpr := u.gpr }) (hk : regsKept l m u)
    (hn : cycDefault c = n) :
    (u.advance words (s.cyc c)).flags = m.flags ∧ onlyRegs l m (u.advance words (s.cyc c))
      ∧ movedOn words c n s (u.advance words (s.cyc c)) := by
  generalize hg : u.gpr = g at hu
  subst hu
  have hpc : m.pc = s.pc := storeFrame_pc hm
  have hcycles : m.cycles = s.cycles := storeFrame_cycles hm
  exact ⟨rfl, ⟨hk, rfl, memKept_refl m, systemKept_refl m⟩, congrArg (· + BitVec.ofNat 16 words) hpc,
    charged_of_default hn (congrArg (· + s.cyc c) hcycles)⟩

end

/-! ### Pointers (R238, R239) -/

theorem Ptr.not_mem_regs {p : Ptr} {r : Reg} : r ∉ p.regs ↔ r ≠ p.low ∧ r ≠ p.low + 1 := by
  simp [Ptr.regs]

theorem overlaps_eq_false {p : Ptr} {r : Reg} (m : PtrMode) (h : r ∉ p.regs) : overlaps p m r = false := by
  obtain ⟨h0, h1⟩ := Ptr.not_mem_regs.mp h
  cases m <;> simp [overlaps, h0, h1]

/-- The new value is `w`'s, whatever an access has left in the pointer. -/
theorem ptr_writeBack {m : PtrMode} (hm : m ≠ .plain) (p : Ptr) (w : Word) (s : State) :
    (writeBack p m w s).ptr p = m.after w := by
  cases m with
  | plain => exact absurd rfl hm
  | postInc => exact State.pair_setPair s p.low _
  | preDec => exact State.pair_setPair s p.low _

theorem ptr_setReg_of_not_mem {p : Ptr} {d : Reg} (h : d ∉ p.regs) (v : Byte) (s : State) :
    (s.setReg d v).ptr p = s.ptr p := by
  obtain ⟨h0, h1⟩ := Ptr.not_mem_regs.mp h
  simp only [State.ptr, State.pair, State.reg_setReg_other s v h0.symm, State.reg_setReg_other s v h1.symm]

theorem toNat_dispAddress (p : Ptr) (q : BitVec 6) (s : State) :
    (dispAddress p q s).toNat = ((s.ptr p).toNat + q.toNat) % 65536 := by
  have hq : (q.setWidth 16).toNat = q.toNat := BitVec.toNat_setWidth_of_le (by decide)
  rw [dispAddress, BitVec.toNat_add, hq]

/-! ### Moves (R210 to R212) -/

theorem regs_of_pair_eq {s t : State} {i j : Reg} (h : t.pair i = s.pair j) :
    t.reg i = s.reg j ∧ t.reg (i + 1) = s.reg (j + 1) :=
  ⟨by simpa [State.pair] using congrArg lo8 h, by simpa [State.pair] using congrArg hi8 h⟩

/-- Settles O39: the write of one register, and for MOVW of a pair. -/
theorem moves : Obligations.Moves := by
  refine ⟨fun d r s => answers_setReg (P := (· = s.reg r)) rfl rfl, fun d r s => ?_,
    fun d k s => answers_setReg (P := (· = k)) rfl rfl⟩
  obtain ⟨hlo, hhi⟩ := regs_of_pair_eq (s.pair_setPair d (s.pair r))
  exact ⟨_, rfl, hlo, hhi, advance_frame (storeFrame_refl s) rfl (s.regsKept_setPair d _) rfl⟩

/-! ### The end of a load

The byte goes to Rd last, after the pointer's write-back (R239). -/

section
variable {s : State} {a words n : Nat} {c : CycCase} {d : Reg} {i : Instr}

theorem loaded_frame {r : State} (p : Ptr) (m : PtrMode) (w : Word) (v : Byte) (hr : storeFrame s r)
    (hn : cycDefault c = n) :
    (((writeBack p m w r).setReg d v).advance words (s.cyc c)).flags = r.flags
      ∧ onlyRegs (d :: m.updates p) r (((writeBack p m w r).setReg d v).advance words (s.cyc c))
      ∧ movedOn words c n s (((writeBack p m w r).setReg d v).advance words (s.cyc c)) :=
  advance_frame hr (by rw [writeBack_eq]; rfl) (regsKept_writeBack_setReg p m w d v r) hn

/-- A load that writes no pointer. -/
theorem answers_load (ha : readOk a s) (hn : cycDefault c = n)
    (hi : ∀ {v m}, memRead a s = .ok (v, m) → exec i s = .next ((m.setReg d v).advance words (s.cyc c))) :
    ∃ v m t, memRead a s = .ok (v, m) ∧ exec i s = .next t ∧ t.reg d = v ∧ t.flags = s.flags ∧ onlyRegs [d] m t
      ∧ movedOn words c n s t := by
  obtain ⟨v, m, hr⟩ := memRead_ok_iff.mpr ha
  obtain ⟨hf, hk⟩ := loaded_frame (d := d) (words := words) .x .plain 0 v (memRead_frame hr) hn
  exact ⟨v, m, _, hr, hi hr, m.reg_setReg_same d v, hf.trans (quiet_flags (memRead_quiet hr)), hk⟩

/-- A load that also updates its pointer, Rd being outside it. -/
theorem answers_loadPtr {p : Ptr} {m : PtrMode} (hm : m ≠ .plain) (hd : d ∉ p.regs)
    (ha : readOk (m.address (s.ptr p)).toNat s) :
    ∃ v r t, memRead (m.address (s.ptr p)).toNat s = .ok (v, r) ∧ outcome (loadPtr p m d s) = .next t ∧ t.reg d = v
      ∧ t.ptr p = m.after (s.ptr p) ∧ t.flags = s.flags ∧ onlyRegs (d :: m.updates p) r t ∧ movedOn 1 .ld 2 s t := by
  obtain ⟨v, r, hr⟩ := memRead_ok_iff.mpr ha
  obtain ⟨hf, hk⟩ := loaded_frame (d := d) p m (s.ptr p) v (memRead_frame hr) (c := .ld) rfl
  exact ⟨v, r, _, hr, outcome_eq_next.mpr (loadPtr_eq_ok.mpr ⟨overlaps_eq_false m hd, v, r, hr, rfl⟩),
    State.reg_setReg_same _ d v, (ptr_setReg_of_not_mem hd v _).trans (ptr_writeBack hm p _ r),
    hf.trans (quiet_flags (memRead_quiet hr)), hk⟩

end

/-! ### The end of a store (R239) -/

section
variable {s : State} {a words n : Nat} {c : CycCase} {v : Byte} {r : Reg} {i : Instr}

/-- A store that writes no pointer. -/
theorem answers_store (ha : writeOk a v s) (hn : cycDefault c = n)
    (hi : ∀ {m}, memWrite a v s = .ok m → exec i s = .next (m.advance words (s.cyc c))) :
    ∃ m t, memWrite a v s = .ok m ∧ exec i s = .next t ∧ t.flags = m.flags ∧ onlyRegs [] m t
      ∧ movedOn words c n s t := by
  obtain ⟨m, hw⟩ := memWrite_ok_iff.mpr ha
  exact ⟨m, _, hw, hi hw, advance_frame (memWrite_frame hw) rfl (fun _ _ => rfl) hn⟩

/-- A store that also updates its pointer, Rr being outside it. -/
theorem answers_storePtr {p : Ptr} {m : PtrMode} (hm : m ≠ .plain) (hr : r ∉ p.regs)
    (ha : writeOk (m.address (s.ptr p)).toNat (s.reg r) s) :
    ∃ w t, memWrite (m.address (s.ptr p)).toNat (s.reg r) s = .ok w ∧ outcome (storePtr p m r s) = .next t
      ∧ t.ptr p = m.after (s.ptr p) ∧ t.flags = w.flags ∧ onlyRegs (m.updates p) w t ∧ movedOn 1 .st 2 s t := by
  obtain ⟨w, hw⟩ := memWrite_ok_iff.mpr ha
  exact ⟨w, _, hw, outcome_eq_next.mpr (storePtr_eq_ok.mpr ⟨overlaps_eq_false m hr, w, hw, rfl⟩),
    ptr_writeBack hm p _ w, advance_frame (memWrite_frame hw) (writeBack_eq p m _ w) (regsKept_writeBack p m _ w) rfl⟩

end

/-! ### Loads and stores (R213 to R232) -/

/-- Settles O40: each is the read at its address, followed by the write of Rd. -/
theorem loadsWithoutUpdate : Obligations.LoadsWithoutUpdate := by
  refine ⟨fun d a s ha => answers_load ha rfl fun hr => outcome_bind_of_ok _ hr,
    fun d s ha => answers_load ha rfl fun hr => outcome_eq_next.mpr (loadPtr_eq_ok.mpr ⟨rfl, _, _, hr, rfl⟩),
    fun d q s ha => ?_, fun d q s ha => ?_⟩
  all_goals
    rw [← toNat_dispAddress] at ha ⊢
    exact answers_load ha rfl fun hr => outcome_bind_of_ok _ hr

/-- Settles O41: the three pointers are one form, post-increment and pre-decrement two modes of it. -/
theorem loadsWithUpdate : Obligations.LoadsWithUpdate := by
  refine fun d s => ⟨fun i p hi hd ha => ?_, fun i p hi hd ha => ?_⟩
  · obtain ⟨rfl, rfl⟩ | ⟨rfl, rfl⟩ | ⟨rfl, rfl⟩ := hi <;> exact answers_loadPtr (m := .postInc) (by decide) hd ha
  · obtain ⟨rfl, rfl⟩ | ⟨rfl, rfl⟩ | ⟨rfl, rfl⟩ := hi <;> exact answers_loadPtr (m := .preDec) (by decide) hd ha

/-- Settles O42: each is the write at its address. -/
theorem storesWithoutUpdate : Obligations.StoresWithoutUpdate := by
  refine ⟨fun a r s ha => answers_store ha rfl fun hw => outcome_bind_of_ok _ hw,
    fun r s ha => answers_store ha rfl fun hw => outcome_eq_next.mpr (storePtr_eq_ok.mpr ⟨rfl, _, hw, rfl⟩),
    fun r q s ha => ?_, fun r q s ha => ?_⟩
  all_goals
    rw [← toNat_dispAddress] at ha ⊢
    exact answers_store ha rfl fun hw => outcome_bind_of_ok _ hw

/-- Settles O43: the write-back comes after the store, from the pointer's value before it. -/
theorem storesWithUpdate : Obligations.StoresWithUpdate := by
  refine fun r s => ⟨fun i p hi hr ha => ?_, fun i p hi hr ha => ?_⟩
  · obtain ⟨rfl, rfl⟩ | ⟨rfl, rfl⟩ | ⟨rfl, rfl⟩ := hi <;> exact answers_storePtr (m := .postInc) (by decide) hr ha
  · obtain ⟨rfl, rfl⟩ | ⟨rfl, rfl⟩ | ⟨rfl, rfl⟩ := hi <;> exact answers_storePtr (m := .preDec) (by decide) hr ha

/-! ### I/O transfers (R236, R237) -/

/-- Settles O47: the same load and store, at the I/O byte's data address (20_memory.md R94). -/
theorem inAndOut : Obligations.InAndOut :=
  ⟨fun _ _ _ ha => answers_load ha rfl fun hr => outcome_bind_of_ok _ hr,
    fun _ _ _ ha => answers_store ha rfl fun hw => outcome_bind_of_ok _ hw⟩

/-! ### Loads from flash (R233 to R235) -/

section
variable {s : State} {m : PtrMode} {d : Reg}

theorem loadFlash_answers (ho : overlaps .z m d = false) (hz : (s.ptr .z).toNat < Config.flashBytes) :
    outcome (loadFlash m d s) = .next
      (((writeBack .z m (s.ptr .z) s).setReg d (s.flashAt (s.ptr .z).toNat)).advance 1 (s.cyc .lpm)) :=
  outcome_eq_next.mpr (loadFlash_eq_ok.mpr ⟨ho, hz, rfl⟩)

theorem loadFlash_faults (ho : overlaps .z m d = false) (hz : Config.flashBytes ≤ (s.ptr .z).toNat) :
    outcome (loadFlash m d s) = .fault (.outOfRangeFlash (s.ptr .z).toNat) := by
  rw [loadFlash, checkOverlap_eq_ok (u := ()).mpr ho, ok_bind]
  exact outcome_bind_of_raise _ (if_neg (Nat.not_lt.mpr hz))

theorem answers_loadFlash_plain (hz : (s.ptr .z).toNat < Config.flashBytes) :
    ∃ t, outcome (loadFlash .plain d s) = .next t ∧ t.reg d = s.flashAt (s.ptr .z).toNat ∧ t.flags = s.flags
      ∧ onlyRegs [d] s t ∧ movedOn 1 .lpm 3 s t :=
  ⟨_, loadFlash_answers rfl hz, s.reg_setReg_same d _, loaded_frame .z .plain _ _ (storeFrame_refl s) rfl⟩

end

/-- Settles O46: a load whose byte comes from flash, with no access of the data space. -/
theorem loadsFromFlash : Obligations.LoadsFromFlash := by
  refine ⟨fun s hz => answers_loadFlash_plain hz, fun d s hz => answers_loadFlash_plain hz,
    fun d s hz h0 h1 => ?_, fun d s hz => ⟨loadFlash_faults rfl hz, loadFlash_faults rfl hz, fun h0 h1 => ?_⟩⟩
  · have hd : d ∉ Ptr.regs .z := Ptr.not_mem_regs.mpr ⟨h0, h1⟩
    exact ⟨_, loadFlash_answers (overlaps_eq_false .postInc hd) hz, State.reg_setReg_same _ d _,
      (ptr_setReg_of_not_mem hd _ _).trans (ptr_writeBack (by decide) .z _ s),
      loaded_frame .z .postInc _ _ (storeFrame_refl s) rfl⟩
  · exact loadFlash_faults (overlaps_eq_false .postInc (Ptr.not_mem_regs.mpr ⟨h0, h1⟩)) hz

end Sys2Proof.Machine
end

/-! PROOF. Dispatch (O60): an interrupt entry inside the stack window is the push followed by the clearing of the source's
flag, and outside the window it stops the step (spec/60_exceptions.md R286, R287, R275). -/

section
namespace Sys2Proof.Machine

/-! ### The pending mask (R30, R286) -/

theorem lowestPending_eq_none_iff_zero {p : BitVec 43} : lowestPending p = none ↔ p = 0 := by
  rw [lowestPending_eq_none]
  constructor
  · intro h
    exact BitVec.eq_of_getLsbD_eq fun i hi => (h ⟨i, hi⟩).trans BitVec.getLsbD_zero.symm
  · rintro rfl n
    exact BitVec.getLsbD_zero

theorem getLsbD_and_not_vector (p : BitVec 43) (n m : Fin 43) :
    (p &&& ~~~(1#43 <<< n.val)).getLsbD m.val = (p.getLsbD m.val && !decide (m = n)) := by
  have hbit : (1#43 <<< n.val).getLsbD m.val = decide (m = n) := by
    rw [BitVec.getLsbD_shiftLeft, BitVec.getLsbD_one, Bool.eq_iff_iff]
    simp only [Bool.and_eq_true, decide_eq_true_eq, Bool.not_eq_true', decide_eq_false_iff_not, Fin.ext_iff]
    omega
  rw [BitVec.getLsbD_and, BitVec.getLsbD_not, hbit, decide_eq_true m.isLt, Bool.true_and]

/-! ### The source's flag (R281, R286) -/

theorem irqSource_bounds : ∀ src ∈ irqSources, src.flagReg < 0x100 ∧ src.flagBit < 8 := by decide

/-- The four sources have four vectors, so a vector finds its own source. -/
theorem clearSourceFlag_of_mem {src : IrqSource} (hsrc : src ∈ irqSources) (s : State) :
    clearSourceFlag src.vector s = s.setByte src.flagReg (clearBit (s.byteAt src.flagReg) src.flagBit) := by
  have hfind : ∀ x ∈ irqSources, irqSources.find? (fun y => decide (y.vector = x.vector)) = some x := by decide
  rw [clearSourceFlag, hfind src hsrc]

theorem clearSourceFlag_bit {src : IrqSource} (hsrc : src ∈ irqSources) (s : State) (b : BitNo) :
    ((clearSourceFlag src.vector s).byteAt src.flagReg).getLsbD b.val
      = ((s.byteAt src.flagReg).getLsbD b.val && !decide (b.val = src.flagBit)) := by
  rw [clearSourceFlag_of_mem hsrc, State.byteAt_setByte_same,
    getLsbD_clearBit (s.byteAt src.flagReg) ⟨src.flagBit, (irqSource_bounds src hsrc).2⟩ b]
  simp only [Fin.ext_iff]

theorem clearSourceFlag_byteAt {n : Fin 43} {a : Nat} (s : State)
    (h : ∀ src ∈ irqSources, src.vector = n → a ≠ src.flagReg) : (clearSourceFlag n s).byteAt a = s.byteAt a := by
  rcases clearSourceFlag_eq n s with e | ⟨src, hsrc, hv, e⟩ <;> rw [e]
  exact State.byteAt_setByte_other s _ (h src hsrc hv)

/-- Below the stack window lie the flag registers, so that no byte of the window is one. -/
theorem ne_flagReg_of_le {a : Nat} (h : 0x100 ≤ a) {n : Fin 43} (src : IrqSource) (hsrc : src ∈ irqSources)
    (_ : src.vector = n) : a ≠ src.flagReg := by
  have := (irqSource_bounds src hsrc).1
  omega

/-! ### The state an entry leaves inside the stack window (R286) -/

/-- The state after the entry of vector `n` where SP - 1 does not wrap. -/
def State.entered (n : Fin 43) (s : State) : State :=
  { s.pushed s.pc with
    data := (clearSourceFlag n (s.pushed s.pc)).data
    pending := s.pending &&& ~~~(1#43 <<< n.val)
    flags := { s.flags with i := false }
    insideInterrupt := true
    pc := BitVec.ofNat 16 (2 * n.val)
    cycles := s.cycles + entryCycles s
    sleeping := false }

section
variable {n : Fin 43} {s : State}

theorem takeInterrupt_eq_entered (hlo : 0x101 ≤ s.sp.toNat) (hhi : s.sp.toNat < 0xB00) :
    takeInterrupt n s = .ok (s.entered n) := by
  rw [takeInterrupt, pushAddr_eq_pushed s.pc hlo hhi, ok_bind, State.entered]
  rcases clearSourceFlag_eq n (s.pushed s.pc) with e | ⟨src, -, -, e⟩ <;> rw [e] <;> rfl

/-- An entry that answers found both bytes of its push in the window. -/
theorem takeInterrupt_window {t : State} (h : takeInterrupt n s = .ok t) : 0x101 ≤ s.sp.toNat ∧ s.sp.toNat < 0xB00 := by
  obtain ⟨hsp, hsp1, -⟩ := takeInterrupt_eq_ok.mp h
  rw [inStack_iff] at hsp hsp1
  rw [toNat_sub_one (by omega)] at hsp1
  omega

theorem takeInterrupt_stop {e : Fault} (h : pushAddr s.pc s = raise e) : takeInterrupt n s = raise e := by
  rw [takeInterrupt, h, raise_bind]

theorem State.entered_pc : (s.entered n).pc.toNat = 2 * n.val :=
  (BitVec.toNat_ofNat _ _).trans (Nat.mod_eq_of_lt (by omega))

theorem State.entered_cycles : (s.entered n).cycles
    = s.cycles + s.params.irqEntryCycles + if s.sleeping then s.params.wakeupCycles else 0 := (Nat.add_assoc _ _ _).symm

theorem State.entered_flagsKept : flagsKept [7] s (s.entered n) := Flags.get_put_other s.flags 7 false

theorem State.entered_word16 (hlo : 0x101 ≤ s.sp.toNat) :
    word16 ((s.entered n).byteAt (s.sp.toNat - 1)) ((s.entered n).byteAt s.sp.toNat) = s.pc := by
  have hlow := clearSourceFlag_byteAt (s.pushed s.pc) (ne_flagReg_of_le (n := n) (show 0x100 ≤ s.sp.toNat by omega))
  have hhigh := clearSourceFlag_byteAt (s.pushed s.pc) (ne_flagReg_of_le (n := n) (show 0x100 ≤ s.sp.toNat - 1 by omega))
  exact (congrArg₂ word16 hhigh hlow).trans (s.word16_pushed s.pc (by omega))

theorem State.entered_byteAt {a : Nat} (h0 : a ≠ s.sp.toNat) (h1 : a ≠ s.sp.toNat - 1)
    (h : ∀ src ∈ irqSources, src.vector = n → a ≠ src.flagReg) : (s.entered n).byteAt a = s.byteAt a :=
  (clearSourceFlag_byteAt (s.pushed s.pc) h).trans ((s.bytesKept_pushed s.pc).1 a (by simp [h0, h1]))

theorem State.entered_flagReg (hlo : 0x101 ≤ s.sp.toNat) {src : IrqSource} (hsrc : src ∈ irqSources) (b : BitNo) :
    ((s.entered src.vector).byteAt src.flagReg).getLsbD b.val
      = ((s.byteAt src.flagReg).getLsbD b.val && !decide (b.val = src.flagBit)) := by
  have hreg := (irqSource_bounds src hsrc).1
  rw [← (s.bytesKept_pushed s.pc).1 src.flagReg (by simp; omega)]
  exact clearSourceFlag_bit hsrc (s.pushed s.pc) b

/-! ### Dispatch (R286, R287) -/

theorem dispatch_idle (h : s.flags.i = false ∨ s.pending = 0) : dispatch s = .ok s :=
  dispatch_eq_ok.mpr (.inl ⟨h.imp_right lowestPending_eq_none_iff_zero.mpr, rfl⟩)

theorem dispatch_eq_takeInterrupt (hi : s.flags.i = true) (hn : lowestPending s.pending = some n) :
    dispatch s = takeInterrupt n s := by
  rw [dispatch, if_pos hi, hn]

/-- `a` is the first byte address outside the window that a push of two bytes at `sp` reaches (R195). -/
def pushStopsAt (sp : Word) (a : Nat) : Prop :=
  ((sp.toNat < 0x100 ∨ 0xB00 ≤ sp.toNat) ∧ a = sp.toNat) ∨ (sp.toNat = 0x100 ∧ a = 0xFF)

theorem pushAddr_stop {a : Nat} (w : Word) (h : pushStopsAt s.sp a) : pushAddr w s = raise (.outOfRangeStack a) := by
  rcases h with ⟨hsp, rfl⟩ | ⟨hsp, rfl⟩
  · exact pushAddr_stop_low w (inStack_eq_false_iff.mpr hsp)
  · have hsub : (s.sp - 1).toNat = 0xFF := by rw [toNat_sub_one (by omega), hsp]
    rw [pushAddr_stop_high w ((inStack_iff s.sp).mpr (by omega)) (inStack_eq_false_iff.mpr (by omega)), hsub]

theorem dispatch_stop {a : Nat} (hi : s.flags.i = true) (hp : s.pending ≠ 0) (h : pushStopsAt s.sp a) :
    dispatch s = raise (.outOfRangeStack a) := by
  obtain ⟨n, hn⟩ := Option.ne_none_iff_exists'.mp (mt lowestPending_eq_none_iff_zero.mp hp)
  rw [dispatch_eq_takeInterrupt hi hn, takeInterrupt_stop (pushAddr_stop s.pc h)]

end

/-- Recognition changes the pending mask only (R284). -/
theorem recognise_eq_setPending (s : State) : recognise s = { s with pending := (recognise s).pending } := by
  rw [recognise_eq]

/-- Where the dispatch of a step stops, so does the step, and the machine keeps what preceded the dispatch (R275). -/
theorem step_stop_of_dispatch {s t u : State} {f : Fault} (hprog : s.hasProgram = true) (hbody : stepBody s = .next t)
    (hu : catchUpAll t.cycles t = .ok u) (hd : dispatch (recognise u) = raise f) :
    step s = .fault f ∧ stoppedState s = some (f, recognise u) := by
  have htail : afterBody t = raise f := by rw [afterBody, hu, ok_bind, hd]
  constructor
  · rw [step, stepCore, if_pos hprog, hbody, thenTail, htail, outcome_raise]
  · simp only [stoppedState, if_pos hprog, hbody, stoppedByTail, hu, hd, raise]

/-- Settles O60: dispatch is idle, the entry of the lowest pending vector, or the stop of its push. -/
theorem interruptEntry : Obligations.InterruptEntry := by
  refine ⟨fun s => dispatch_idle, ?_, ?_⟩
  · intro n s hi hn hlowest hlo hhi
    refine ⟨s.entered n, ?_, State.entered_pc, rfl, State.entered_flagsKept, State.entered_word16 hlo, rfl,
      getLsbD_and_not_vector s.pending n, ?_, rfl, rfl, State.entered_cycles, rfl, rfl, rfl, rfl, rfl, rfl, rfl, rfl, rfl,
      fun a => State.entered_byteAt⟩
    · rw [dispatch_eq_takeInterrupt hi (lowestPending_eq_some.mpr ⟨hn, hlowest⟩), takeInterrupt_eq_entered hlo hhi]
    · rintro src hsrc rfl
      exact State.entered_flagReg hlo hsrc
  · intro s t u a hprog hbody hu hi hp ha
    rw [recognise_eq_setPending u] at hp
    refine step_stop_of_dispatch hprog hbody hu ?_
    rw [recognise_eq_setPending u]
    exact dispatch_stop hi hp ha

end Sys2Proof.Machine
end

/-! PROOF. A sleeping step (O7): one cycle, catch-up, recognition and dispatch, so that what it leaves is the catch-up's state or
an interrupt entry's (spec/60_exceptions.md R330 to R332). -/

section
namespace Sys2Proof.Machine

section
variable {s u t : State}

theorem stepBody_of_sleeping (h : s.sleeping = true) : stepBody s = .next (sleepAdvance 1 s) := if_pos h

theorem step_of_sleeping (hprog : s.hasProgram = true) (h : s.sleeping = true) :
    step s = outcome (afterBody (sleepAdvance 1 s)) := by
  rw [step, stepCore, if_pos hprog, stepBody_of_sleeping h, thenTail]

/-- Recognition changes the pending mask only, a catch-up bytes, baselines and timer3's memo only: beside these the state is
the one before the sleeping cycle, a cycle later. -/
theorem recognise_sleepAdvance (hu : catchUpAll (s.cycles + 1) (sleepAdvance 1 s) = .ok u) :
    recognise u = { s with
      cycles := s.cycles + 1, data := u.data, last := u.last, t3Triggered := u.t3Triggered, pending := (recognise u).pending } := by
  have hq := catchUpAll_quiet hu
  calc recognise u = { u with pending := (recognise u).pending } := recognise_eq_setPending u
    _ = _ := congrArg (fun x : State => { x with pending := (recognise u).pending }) hq

/-- The step leaves the machine asleep, nothing having been dispatched, or it enters the lowest pending vector. -/
theorem step_sleeping_cases (hprog : s.hasProgram = true) (h : s.sleeping = true) (ht : step s = .next t) :
    ∃ u, catchUpAll (s.cycles + 1) (sleepAdvance 1 s) = .ok u
      ∧ (((s.flags.i = false ∨ (recognise u).pending = 0) ∧ t = recognise u)
        ∨ (s.flags.i = true ∧ ∃ n, lowestPending (recognise u).pending = some n
            ∧ 0x101 ≤ s.sp.toNat ∧ s.sp.toNat < 0xB00 ∧ t = (recognise u).entered n)) := by
  rw [step_of_sleeping hprog h, outcome_eq_next] at ht
  obtain ⟨u, hu, hd⟩ := afterBody_eq_ok.mp ht
  have hr := recognise_sleepAdvance hu
  have hi : (recognise u).flags.i = s.flags.i := by rw [hr]
  have hsp : (recognise u).sp = s.sp := by rw [hr]
  refine ⟨u, hu, (dispatch_eq_ok.mp hd).imp ?_ ?_⟩
  · rw [hi, lowestPending_eq_none_iff_zero]
    exact id
  · rw [hi, ← hsp]
    rintro ⟨hon, n, hn, hentry⟩
    obtain ⟨hlo, hhi⟩ := takeInterrupt_window hentry
    rw [takeInterrupt_eq_entered hlo hhi] at hentry
    exact ⟨hon, n, hn, hlo, hhi, (Except.ok.inj hentry).symm⟩

end

/-- Settles O7: the state the catch-up and the recognition leave, and what its interrupt entry makes of it. -/
theorem sleepingStep : Obligations.SleepingStep := by
  intro s hprog hsleep
  refine ⟨step_of_sleeping hprog hsleep, fun t ht => ?_⟩
  obtain ⟨u, hu, ⟨hidle, rfl⟩ | ⟨hon, n, hn, hlo, hhi, rfl⟩⟩ := step_sleeping_cases hprog hsleep ht
  · have hr := recognise_sleepAdvance hu
    obtain ⟨heewe, hpll, hadc, -⟩ := catchUpAll_last hu
    have hasleep : (recognise u).sleeping = true := by rw [hr]; exact hsleep
    refine ⟨fun _ => ?_, fun _ => ?_, fun _ => ⟨u, hu, rfl, hidle⟩, fun hawake => ?_⟩
    · rw [hr]
      exact ⟨hsleep, rfl, rfl, rfl, rfl, rfl, rfl, rfl, rfl, rfl, hprog, heewe, hpll, hadc⟩
    · rw [hr]
      exact ⟨fun a ha => catchUpAll_byteAt hu ha, fun _ => rfl, fun _ => rfl⟩
    · rw [hasleep] at hawake
      contradiction
  · have hr := recognise_sleepAdvance hu
    obtain ⟨hpending, hlowest⟩ := lowestPending_eq_some.mp hn
    refine ⟨fun hoff => ?_, fun hoff => ?_, fun hasleep => ?_, fun _ => ?_⟩
    · rw [hon] at hoff; contradiction
    · rw [hon] at hoff; contradiction
    · exact absurd hasleep Bool.false_ne_true
    · obtain ⟨hsp, hpc, hcount, hasleep, hparams⟩ : (recognise u).sp = s.sp ∧ (recognise u).pc = s.pc
          ∧ (recognise u).cycles = s.cycles + 1 ∧ (recognise u).sleeping = true ∧ (recognise u).params = s.params := by
        rw [hr]; exact ⟨rfl, rfl, rfl, hsleep, rfl⟩
      have hword := State.entered_word16 (n := n) (hsp ▸ hlo)
      have hcycles := State.entered_cycles (n := n) (s := recognise u)
      rw [hsp, hpc] at hword
      rw [if_pos hasleep, hcount, hparams] at hcycles
      exact ⟨hon, rfl, rfl, congrArg (· - 2) hsp, hword, hcycles, u, n, hu, hpending, hlowest, State.entered_pc⟩

end Sys2Proof.Machine
end

/-! PROOF. What the fetch of a step stops with (O8): the words of R108 are classes of bit patterns that meet no row of the
opcode table (spec/30_encoding.md R106, R108), and the stops come in the order of R275 (spec/60_exceptions.md). -/

section
namespace Sys2Proof.Machine

/-! ### The words of R108 select no row of R106 -/

/-- A row of the table of R108: the words with these bits, but for an exempt one. -/
structure ReservedClass where
  mask : Word
  pat : Word
  exempt : List Word

/-- R108's rows, in its order: a condition on the low four bits is a row for each value it admits. -/
def reservedClasses : List ReservedClass :=
  [⟨0xFF00, 0x0000, [0]⟩]
    ++ [3, 6, 7, 8, 11].map (fun low => ⟨0xFE0F, 0x9000 ||| BitVec.ofNat 16 low, []⟩)
    ++ [3, 4, 5, 6, 7, 8, 11].map (fun low => ⟨0xFE0F, 0x9200 ||| BitVec.ofNat 16 low, []⟩)
    ++ [4, 11].map (fun low => ⟨0xFE0F, 0x9400 ||| BitVec.ofNat 16 low, []⟩)
    ++ [⟨0xFF0F, 0x9409, [0x9409]⟩, ⟨0xFF0F, 0x9509, [0x9509]⟩]
    ++ [0x9528, 0x9538, 0x9548, 0x9558, 0x9568, 0x9578, 0x95B8, 0x95D8, 0x95E8, 0x95F8].map
      (fun n => ⟨0xFFFF, BitVec.ofNat 16 n, []⟩)
    ++ [⟨0xF808, 0xF808, []⟩]

/-- The low four bits of a word beside its upper seven. -/
theorem and_low_bits {w p : Word} {low : Nat} (h : w &&& 0xFE00 = p) (hlow : w.toNat % 16 = low) :
    w &&& 0xFE0F = p ||| BitVec.ofNat 16 low := by
  have hmod : w &&& 0x000F = BitVec.ofNat 16 low := by
    apply BitVec.eq_of_toNat_eq
    rw [BitVec.toNat_and, ← hlow, BitVec.toNat_ofNat]
    exact (Nat.and_two_pow_sub_one_eq_mod w.toNat 4).trans (by omega)
  rw [← h, ← hmod, ← BitVec.and_or_distrib_left]
  rfl

theorem and_upper_byte {w : Word} (h : w.toNat < 256) : w &&& 0xFF00 = 0 := by
  have hbyte : ∀ x : Byte, x.setWidth 16 &&& 0xFF00 = 0 := by decide
  have hw : (w.setWidth 8).setWidth 16 = w := BitVec.eq_of_toNat_eq (by simp; omega)
  exact hw ▸ hbyte (w.setWidth 8)

theorem ofNat_toNat_word (w : Word) : BitVec.ofNat 16 w.toNat = w := (BitVec.ofNat_toNat 16 w).trans (BitVec.setWidth_eq w)

theorem exists_reservedClass {w : Word} (h : reservedWord w = true) :
    ∃ c ∈ reservedClasses, w &&& c.mask = c.pat ∧ w ∉ c.exempt := by
  simp only [reservedWord, Bool.or_eq_true, Bool.and_eq_true, decide_eq_true_eq, List.contains_eq_mem] at h
  simp only [reservedClasses, List.mem_append, List.mem_map]
  rcases h with ((((((⟨hlo, hhi⟩ | ⟨hw, hlow⟩) | ⟨hw, hlow⟩) | ⟨hw, hlow⟩) | ⟨hw, hn⟩) | ⟨hw, hn⟩) | hn) | hw
  · exact ⟨_, .inl (.inl (.inl (.inl (.inl (.inl (List.mem_singleton.mpr rfl)))))), and_upper_byte (by omega),
      mt List.mem_singleton.mp (BitVec.toNat_ne_iff_ne.mp (Nat.ne_of_gt hlo))⟩
  · exact ⟨_, .inl (.inl (.inl (.inl (.inl (.inr ⟨_, hlow, rfl⟩))))), and_low_bits hw rfl, List.not_mem_nil⟩
  · exact ⟨_, .inl (.inl (.inl (.inl (.inr ⟨_, hlow, rfl⟩)))), and_low_bits hw rfl, List.not_mem_nil⟩
  · exact ⟨_, .inl (.inl (.inl (.inr ⟨_, hlow, rfl⟩))), and_low_bits hw rfl, List.not_mem_nil⟩
  · exact ⟨_, .inl (.inl (.inr List.mem_cons_self)), hw, mt List.mem_singleton.mp (BitVec.toNat_ne_iff_ne.mp hn)⟩
  · exact ⟨_, .inl (.inl (.inr (List.mem_cons_of_mem _ List.mem_cons_self))), hw,
      mt List.mem_singleton.mp (BitVec.toNat_ne_iff_ne.mp hn)⟩
  · exact ⟨_, .inl (.inr ⟨_, hn, rfl⟩), BitVec.and_allOnes.trans (ofNat_toNat_word w).symm, List.not_mem_nil⟩
  · exact ⟨_, .inr (List.mem_singleton.mpr rfl), hw, List.not_mem_nil⟩

/-- Each class differs from each row in a bit both test, or the row is the class's exempt word. -/
theorem reservedClass_meets_no_row : ∀ c ∈ reservedClasses, ∀ row ∈ opcodeTable,
    row.pat &&& c.mask ≠ c.pat &&& row.mask ∨ (row.mask = 0xFFFF ∧ row.pat ∈ c.exempt) := by
  decide

theorem decodeWords_of_reserved {w w2 : Word} (h : reservedWord w = true) : decodeWords w w2 = none := by
  obtain ⟨c, hc, hw, hexempt⟩ := exists_reservedClass h
  refine Option.map_eq_none_iff.mpr (List.find?_eq_none.mpr fun row hrow hhits => ?_)
  have hrowpat : w &&& row.mask = row.pat := of_decide_eq_true hhits
  rcases reservedClass_meets_no_row c hc row hrow with hdiff | ⟨hmask, hpat⟩
  · apply hdiff
    rw [← hw, ← hrowpat, BitVec.and_assoc, BitVec.and_assoc, BitVec.and_comm c.mask]
  · rw [hmask] at hrowpat
    exact hexempt ((BitVec.and_allOnes.symm.trans hrowpat) ▸ hpat)

/-! ### The fetch (R275, R346) -/

theorem step_of_fetch_stop {s : State} {f : Fault} (hprog : s.hasProgram = true) (hawake : s.sleeping = false)
    (h : fetch s = raise f) : step s = .fault f := by
  simp only [step, stepCore, hprog, stepBody, hawake, runInstr, h, raise, thenTail, if_true, Bool.false_eq_true, if_false]

theorem fetch_stop_outside {s : State} (h : 16384 ≤ s.pc.toNat) : fetch s = raise (.outOfRangeFlash s.pc.toNat) := by
  rw [fetch, State.flashWord_stop (Nat.not_lt.mpr h), raise_bind]

theorem fetch_stop_reserved {s : State} {w : Word} (hw : s.flashWord s.pc.toNat = .ok w) (h : reservedWord w = true) :
    fetch s = raise (.unhandledOpcode w s.pc) := by
  rw [fetch, hw, ok_bind, decodeWords_of_reserved h]

theorem decodeWords_of_is2Word {w : Word} (w2 : Word) (h : is2Word w = true) : ∃ i, decodeWords w w2 = some i := by
  obtain ⟨row, hrow, -, hhits⟩ := is2Word_iff.mp h
  have hfind := List.find?_isSome (p := fun row : OpcodeRow => row.hits w) |>.mpr ⟨row, hrow, hhits⟩
  exact Option.isSome_iff_exists.mp (Option.isSome_map.trans hfind)

theorem fetch_stop_second {s : State} {w : Word} (hw : s.flashWord s.pc.toNat = .ok w) (h : is2Word w = true)
    (hpc : s.pc.toNat = 16383) : fetch s = raise (.outOfRangeFlash 16384) := by
  obtain ⟨i, hi⟩ := decodeWords_of_is2Word 0 h
  have hsecond : s.flashWord (s.pc.toNat + 1) = raise (.outOfRangeFlash 16384) := by
    rw [hpc]
    exact State.flashWord_stop (by decide)
  rw [fetch, hw, ok_bind, hi]
  change fetchOperand w i s = _
  rw [fetchOperand, if_pos h, hsecond, raise_bind]

/-- Settles O8: without a program there is no step, and an awake step stops with what its fetch stops with. -/
theorem fetchStops : Obligations.FetchStops := by
  refine fun s => ⟨fun hnone => ?_, fun hprog hawake => ⟨fun hpc => ?_, fun w hw hres => ?_, fun w hw h2 hpc => ?_⟩⟩
  · rw [step, stepCore, hnone, if_neg Bool.false_ne_true]
  · exact step_of_fetch_stop hprog hawake (fetch_stop_outside hpc)
  · exact step_of_fetch_stop hprog hawake (fetch_stop_reserved hw hres)
  · exact step_of_fetch_stop hprog hawake (fetch_stop_second hw h2 hpc)

end Sys2Proof.Machine
end

/-! PROOF. Ticks (spec/60_exceptions.md R310, R312, R318, R322): what a timer's registers hold after a number of ticks, as a
function of that number, and that passing `k + l` ticks is passing `k` and then `l`. -/

section
namespace Sys2Proof.Machine

/-! ### Ticks and baselines (R310, R312) -/

/-- A timer's baseline after a catch-up to `now`: the present where it is stopped, else moved on by whole ticks. -/
def baselineAt (div now last : Nat) : Nat := if div = 0 then now else last + (now - last) / div * div

/-- The ticks up to `n` are those up to an earlier `m` and those from the baseline then left. -/
theorem ticks_split {m n : Nat} (hmn : m ≤ n) (div last : Nat) :
    (n - last) / div = (m - last) / div + (n - baselineAt div m last) / div := by
  by_cases hd : div = 0
  · simp [hd]
  · have hle : (m - last) / div ≤ (n - last) / div := Nat.div_le_div_right (by omega)
    have hsub : n - baselineAt div m last = n - last - div * ((m - last) / div) := by
      rw [baselineAt, if_neg hd, Nat.sub_add_eq, Nat.mul_comm]
    rw [hsub, Nat.sub_mul_div, Nat.add_sub_cancel' hle]

theorem baselineAt_baselineAt {m n : Nat} (hmn : m ≤ n) (div last : Nat) :
    baselineAt div n (baselineAt div m last) = baselineAt div n last := by
  by_cases hd : div = 0
  · simp only [baselineAt, hd, if_true]
  · rw [baselineAt, if_neg hd, baselineAt.eq_1 div n last, if_neg hd, ticks_split hmn div last, Nat.add_mul, ← Nat.add_assoc]
    congr 1
    exact if_neg hd

/-- A counter modulo `m` wraps within `k + l` ticks where it wraps within the first `k` or the next `l`. -/
theorem wraps_add (m old k l : Nat) :
    (decide (m ≤ old + k) || decide (m ≤ (old + k) % m + l)) = decide (m ≤ old + (k + l)) := by
  rw [Bool.eq_iff_iff, Bool.or_eq_true, decide_eq_true_eq, decide_eq_true_eq, decide_eq_true_eq]
  by_cases hk : m ≤ old + k
  · omega
  · rw [Nat.mod_eq_of_lt (Nat.not_le.mp hk)]
    omega

/-! ### Flag bits that ticks may set -/

/-- A flag bit set, or the byte as it was. -/
def setBitIf (b : Bool) (v : Byte) (i : Nat) : Byte := if b then setBit v i else v

theorem setBitIf_setBitIf (b c : Bool) (v : Byte) (i : Nat) :
    setBitIf c (setBitIf b v i) i = setBitIf (b || c) v i := by
  cases b <;> cases c <;> simp [setBitIf, setBit, BitVec.or_assoc]

theorem setBitIf_comm (b c : Bool) (v : Byte) (i j : Nat) :
    setBitIf c (setBitIf b v i) j = setBitIf b (setBitIf c v j) i := by
  have hbits : setBit (setBit v i) j = setBit (setBit v j) i := by
    rw [setBit, setBit, BitVec.or_assoc, BitVec.or_comm (1#8 <<< i), ← BitVec.or_assoc]
    rfl
  cases b <;> cases c <;> simp [setBitIf, hbits]

theorem getLsbD_setBitIf (p : Bool) (v : Byte) (i b : BitNo) :
    (setBitIf p v i.val).getLsbD b.val = (v.getLsbD b.val || (decide (b = i) && p)) := by
  cases p
  · simp [setBitIf]
  · rw [setBitIf, if_pos rfl, getLsbD_setBit, Bool.and_true]

/-! ### Matches (R318, R322) -/

/-- How many of the `k` values after `old` of a counter modulo `m` are `target`. -/
def matchCount (m old target k : Nat) : Nat := Nat.count (fun j => (old + j + 1) % m = target) k

theorem matchCount_add (m old target k l : Nat) :
    matchCount m old target (k + l) = matchCount m old target k + matchCount m ((old + k) % m) target l := by
  have hvalue : ∀ j, ((old + k) % m + j + 1) % m = (old + (k + j) + 1) % m := fun j => by
    rw [Nat.add_assoc, Nat.mod_add_mod]
    congr 1
    omega
  simp only [matchCount, Nat.count_add, hvalue]

theorem matchCount_eq_zero {m target : Nat} (hm : 0 < m) (h : m ≤ target) (old k : Nat) : matchCount m old target k = 0 := by
  have hne : ∀ j, (old + j + 1) % m ≠ target := fun j => ((Nat.mod_lt _ hm).trans_le h).ne
  simp [matchCount, Nat.count_eq_card_filter_range, hne]

theorem firstMatch_value {m target : Nat} (h : target < m) (old : Nat) :
    (old + (firstMatch m old target - 1) + 1) % m = target := by
  have hold : old % m < m := Nat.mod_lt old (Nat.zero_lt_of_lt h)
  have hsum : old % m + (target + (m - old % m) + m - 1) + 1 = target + m + m := by omega
  calc (old + (firstMatch m old target - 1) + 1) % m
    _ = (old % m + (target + (m - old % m) + m - 1) + 1) % m := by simp [firstMatch, Nat.add_mod]
    _ = target := by rw [hsum, Nat.add_mod_right, Nat.add_mod_right, Nat.mod_eq_of_lt h]

/-- The first match is after 1 to `m` ticks, and the later ones every `m`. -/
theorem match_iff {m target : Nat} (h : target < m) (old j : Nat) :
    (old + j + 1) % m = target ↔ j ≡ firstMatch m old target - 1 [MOD m] := by
  calc (old + j + 1) % m = target
    _ ↔ old + j + 1 ≡ old + (firstMatch m old target - 1) + 1 [MOD m] := by rw [Nat.ModEq, firstMatch_value h]
    _ ↔ _ := ⟨fun hj => (hj.add_right_cancel' 1).add_left_cancel' old, fun hj => (hj.add_left old).add_right 1⟩

/-- The numbers below `k` with remainder `r` modulo `m`, counted by quotients and counted from the first of them on. -/
theorem div_add_ite_lt_mod {m r : Nat} (h : r < m) (k : Nat) :
    (k / m + if r < k % m then 1 else 0) = if r + 1 ≤ k then (k - (r + 1)) / m + 1 else 0 := by
  have hk := Nat.div_add_mod k m
  have hp := Nat.mod_lt k (Nat.zero_lt_of_lt h)
  generalize k / m = q, k % m = p at hk hp
  by_cases hr : r < p
  · have hsub : k - (r + 1) = m * q + (p - (r + 1)) := by omega
    rw [if_pos hr, if_pos (by omega), hsub, Nat.mul_add_div (by omega), Nat.div_eq_of_lt (by omega), Nat.add_zero]
  · cases q with
    | zero => rw [if_neg hr, if_neg (by omega)]
    | succ q =>
      rw [Nat.mul_succ] at hk
      have hsub : k - (r + 1) = m * q + (m + p - (r + 1)) := by omega
      rw [if_neg hr, if_pos (by omega), hsub, Nat.mul_add_div (by omega), Nat.div_eq_of_lt (by omega)]

/-- R322's closed form counts the matches. -/
theorem matchCount_eq {m target : Nat} (h : target < m) (old k : Nat) : matchCount m old target k
    = if firstMatch m old target ≤ k then (k - firstMatch m old target) / m + 1 else 0 := by
  have hm : 0 < m := Nat.zero_lt_of_lt h
  have hlt : firstMatch m old target - 1 < m := Nat.mod_lt _ hm
  simp only [matchCount, match_iff h]
  rw [Nat.count_modEq_card k hm, Nat.mod_eq_of_lt hlt, div_add_ite_lt_mod hlt]
  rfl

theorem firstMatch_le_iff {m target : Nat} (h : target < m) (old k : Nat) :
    firstMatch m old target ≤ k ↔ 0 < matchCount m old target k := by
  rw [matchCount_eq h]
  by_cases hk : firstMatch m old target ≤ k <;> simp [hk]

/-- A counter that counts on from where `k` ticks left it. -/
theorem ofNat_toNat_add {w : Nat} (c : BitVec w) (k l : Nat) :
    BitVec.ofNat w ((BitVec.ofNat w (c.toNat + k)).toNat + l) = BitVec.ofNat w (c.toNat + (k + l)) := by
  apply BitVec.eq_of_toNat_eq
  simp only [BitVec.toNat_ofNat, Nat.mod_add_mod, Nat.add_assoc]

/-! ### Timer0 (R312) -/

/-- The registers timer0's ticks change. -/
structure Timer0Regs where
  tcnt : Byte
  tifr : Byte

/-- `k` ticks: TCNT0 counted on modulo 256, TOV0 set on a wrap. -/
def Timer0Regs.pass (k : Nat) (r : Timer0Regs) : Timer0Regs where
  tcnt := BitVec.ofNat 8 (r.tcnt.toNat + k)
  tifr := setBitIf (decide (256 ≤ r.tcnt.toNat + k)) r.tifr 0

theorem Timer0Regs.pass_pass (k l : Nat) (r : Timer0Regs) : (r.pass k).pass l = r.pass (k + l) := by
  have hcount : (r.pass k).tcnt.toNat = (r.tcnt.toNat + k) % 256 := BitVec.toNat_ofNat _ _
  have htifr : ((r.pass k).pass l).tifr = (r.pass (k + l)).tifr := by
    rw [pass, hcount, pass, pass, setBitIf_setBitIf, wraps_add]
  exact congrArg₂ Timer0Regs.mk (ofNat_toNat_add r.tcnt k l) htifr

/-! ### Timer3 (R318) -/

/-- The registers timer3's ticks change. -/
structure Timer3Regs where
  count : Word
  tifr : Byte

/-- `k` ticks: TCNT3 counted on modulo 65536, OCF3A set on a match. -/
def Timer3Regs.pass (target k : Nat) (r : Timer3Regs) : Timer3Regs where
  count := BitVec.ofNat 16 (r.count.toNat + k)
  tifr := setBitIf (decide (0 < matchCount 65536 r.count.toNat target k)) r.tifr 1

theorem Timer3Regs.pass_pass (target k l : Nat) (r : Timer3Regs) :
    (r.pass target k).pass target l = r.pass target (k + l) := by
  have hcount : (r.pass target k).count.toNat = (r.count.toNat + k) % 65536 := BitVec.toNat_ofNat _ _
  have htifr : ((r.pass target k).pass target l).tifr = (r.pass target (k + l)).tifr := by
    rw [pass, hcount, pass, pass, setBitIf_setBitIf, matchCount_add]
    simp only [← Bool.decide_or, Nat.add_pos_iff_pos_or_pos]
  exact congrArg₂ Timer3Regs.mk (ofNat_toNat_add r.count k l) htifr

/-! ### Timer4 (R321 to R323) -/

/-- The registers timer4's ticks change. -/
structure Timer4Regs where
  tcnt : Byte
  tc4h : Byte
  tifr : Byte
  portc : Byte

/-- TCNT4's ten bits. -/
def Timer4Regs.count (r : Timer4Regs) : Nat := r.tc4h.toNat % 4 * 256 + r.tcnt.toNat

/-- Some ticks, `k` of them: TCNT4 counted on modulo `m`, TOV4 set on a wrap, OCF4A set on a match, PORTC toggled on each. -/
def Timer4Regs.counted (m target : Nat) (toggle : Byte) (k : Nat) (r : Timer4Regs) : Timer4Regs where
  tcnt := BitVec.ofNat 8 ((r.count % m + k) % m)
  tc4h := (r.tc4h &&& 0xFC) ||| BitVec.ofNat 8 ((r.count % m + k) % m / 256 % 4)
  tifr := setBitIf (decide (0 < matchCount m (r.count % m) target k)) (setBitIf (decide (m ≤ r.count % m + k)) r.tifr 2) 6
  portc := if matchCount m (r.count % m) target k % 2 = 1 then r.portc ^^^ toggle else r.portc

/-- `k` ticks: where there is none, a counter beyond the top stays there. -/
def Timer4Regs.pass (m target : Nat) (toggle : Byte) (k : Nat) (r : Timer4Regs) : Timer4Regs :=
  if k = 0 then r else r.counted m target toggle k

/-- TC4H keeps its upper bits and takes two of the counter's. -/
theorem tc4h_parts (v : Byte) (n : Nat) :
    ((v &&& 0xFC) ||| BitVec.ofNat 8 (n % 4)).toNat % 4 = n % 4
      ∧ ((v &&& 0xFC) ||| BitVec.ofNat 8 (n % 4)) &&& 0xFC = v &&& 0xFC := by
  have hall : ∀ (v : Byte) (n : Fin 4), ((v &&& 0xFC) ||| BitVec.ofNat 8 n.val).toNat % 4 = n.val
      ∧ ((v &&& 0xFC) ||| BitVec.ofNat 8 n.val) &&& 0xFC = v &&& 0xFC := by decide
  exact hall v ⟨n % 4, Nat.mod_lt n (by decide)⟩

/-- Toggles undo each other in pairs. -/
theorem toggle_add (p x : Byte) (a b : Nat) :
    (if b % 2 = 1 then (if a % 2 = 1 then p ^^^ x else p) ^^^ x else if a % 2 = 1 then p ^^^ x else p)
      = if (a + b) % 2 = 1 then p ^^^ x else p := by
  have hxx : p ^^^ x ^^^ x = p := by rw [BitVec.xor_assoc, BitVec.xor_self, BitVec.xor_zero]
  rcases Nat.mod_two_eq_zero_or_one a with ha | ha <;> rcases Nat.mod_two_eq_zero_or_one b with hb | hb <;>
    simp [Nat.add_mod, ha, hb, hxx]

section
variable {m : Nat} (hpos : 0 < m) (hm : m ≤ 1024) (target : Nat) (toggle : Byte)
include hpos hm

theorem Timer4Regs.count_counted (k : Nat) (r : Timer4Regs) :
    (r.counted m target toggle k).count = (r.count % m + k) % m := by
  have hlt := Nat.mod_lt (r.count % m + k) hpos
  rw [counted, count, (tc4h_parts _ _).1, BitVec.toNat_ofNat]
  omega

theorem Timer4Regs.counted_counted (k l : Nat) (r : Timer4Regs) :
    (r.counted m target toggle k).counted m target toggle l = r.counted m target toggle (k + l) := by
  have hcount : (r.counted m target toggle k).count % m = (r.count % m + k) % m := by
    rw [count_counted hpos hm target toggle, Nat.mod_mod]
  have hvalue : ((r.count % m + k) % m + l) % m = (r.count % m + (k + l)) % m := by rw [Nat.mod_add_mod, Nat.add_assoc]
  simp only [counted.eq_1 m target toggle l, counted.eq_1 m target toggle (k + l), hcount, hvalue]
  rw [counted, matchCount_add, ← wraps_add]
  congr 1
  · rw [(tc4h_parts _ _).2]
  · simp only [setBitIf_comm _ _ _ 6 2, setBitIf_setBitIf, ← Bool.decide_or, Nat.add_pos_iff_pos_or_pos]
  · exact toggle_add _ _ _ _

theorem Timer4Regs.pass_pass (k l : Nat) (r : Timer4Regs) :
    (r.pass m target toggle k).pass m target toggle l = r.pass m target toggle (k + l) := by
  by_cases hk : k = 0
  · rw [hk, Nat.zero_add, pass.eq_1 m target toggle 0, if_pos rfl]
  by_cases hl : l = 0
  · rw [hl, Nat.add_zero, pass, if_pos rfl]
  rw [pass, if_neg hl, pass, if_neg hk, pass, if_neg (by omega), counted_counted hpos hm]

end

end Sys2Proof.Machine
end

/-! PROOF. Each timer's catch-up passes its registers the ticks since its baseline, and moves the baseline on by whole ticks
(spec/60_exceptions.md R312, R318, R322, R323). -/

section
namespace Sys2Proof.Machine

/-! ### What sets a tick's effect -/

/-- The divisors of the three timers, and what their ticks compare with and toggle. -/
structure TimerSettings where
  div0 : Nat
  div3 : Nat
  target3 : Nat
  div4 : Nat
  modulus4 : Nat
  target4 : Nat
  toggle4 : Byte

/-- The settings a state holds; a divisor the table does not define stands as 0, where no catch-up answers. -/
def State.timerSettings (s : State) : TimerSettings where
  div0 := (prescale (clockSelect (s.byteAt aTCCR0B))).getD 0
  div3 := (prescale (clockSelect (s.byteAt aTCCR3B))).getD 0
  target3 := s.ocr3a.toNat
  div4 := divisor4 s
  modulus4 := s.params.t4Top + 1
  target4 := t4Compare s
  toggle4 := t4Toggle s

/-! ### Each timer's registers after its catch-up -/

def State.timer0 (s : State) : Timer0Regs := ⟨s.byteAt aTCNT0, s.byteAt aTIFR0⟩

def State.timer3 (s : State) : Timer3Regs := ⟨s.tcnt3, s.byteAt aTIFR3⟩

def State.timer4 (s : State) : Timer4Regs := ⟨s.byteAt aTCNT4, s.byteAt aTC4H, s.byteAt aTIFR4, s.byteAt aPORTC⟩

theorem Timer0Regs.pass_zero (r : Timer0Regs) : r.pass 0 = r := by
  have hlt := r.tcnt.isLt
  have hwrap : decide (256 ≤ r.tcnt.toNat + 0) = false := decide_eq_false (by omega)
  rw [pass, hwrap, Nat.add_zero, BitVec.ofNat_toNat, BitVec.setWidth_eq]
  rfl

theorem Timer3Regs.pass_zero (target : Nat) (r : Timer3Regs) : r.pass target 0 = r := by
  rw [pass, Nat.add_zero, BitVec.ofNat_toNat, BitVec.setWidth_eq]
  rfl

theorem advance0_timer0 (d now : Nat) (s : State) :
    (advance0 d now s).timer0 = s.timer0.pass ((now - s.last.t0) / d) := by
  rcases advance0_cases d now s with ⟨rfl, e⟩ | ⟨-, hk, e⟩ | ⟨-, -, e⟩
  · rw [e, Nat.div_zero, Timer0Regs.pass_zero]
    rfl
  · rw [e, hk, Timer0Regs.pass_zero]
  · have hne : aTIFR0 ≠ aTCNT0 := by decide
    rw [e]
    by_cases hwrap : 256 ≤ (s.byteAt aTCNT0).toNat + (now - s.last.t0) / d <;>
      simp [State.timer0, Timer0Regs.pass, setBitIf, setTov0, hwrap, State.byteAt_setByte, hne, hne.symm]

theorem advance0_t0 (d now : Nat) (s : State) : (advance0 d now s).last.t0 = baselineAt d now s.last.t0 := by
  rcases advance0_cases d now s with ⟨rfl, e⟩ | ⟨hd, hk, e⟩ | ⟨hd, -, e⟩
  · rw [e]; rfl
  · rw [e, baselineAt, if_neg hd, hk, Nat.zero_mul, Nat.add_zero]
  · rw [e, baselineAt, if_neg hd]
    rfl

theorem State.timer3_setTcnt3 (s : State) (w : Word) : (s.setTcnt3 w).timer3 = ⟨w, s.byteAt aTIFR3⟩ := by
  have hlow : aTCNT3L ≠ aTCNT3H := by decide
  have hflag : aTIFR3 ≠ aTCNT3H ∧ aTIFR3 ≠ aTCNT3L := by decide
  simp [State.timer3, State.tcnt3, State.setTcnt3, State.byteAt_setByte, hlow, hflag]

theorem advance3_timer3 (d now : Nat) (s : State) :
    (advance3 d now s).timer3 = s.timer3.pass s.ocr3a.toNat ((now - s.last.t3) / d) := by
  rcases advance3_cases d now s with ⟨rfl, e⟩ | ⟨-, hk, e⟩ | ⟨-, -, hit, w, hhit, hw, e⟩
  · rw [e, Nat.div_zero, Timer3Regs.pass_zero]
    rfl
  · rw [e, hk, Timer3Regs.pass_zero]
  · have hflag : (if hit then setOcf3a s else s).byteAt aTIFR3 = setBitIf hit (s.byteAt aTIFR3) 1 := by
      cases hit
      · rfl
      · exact State.byteAt_setByte_same s _ _
    rw [decide_eq_decide.mpr (firstMatch_le_iff (m := 65536) s.ocr3a.isLt _ _)] at hhit
    calc (advance3 d now s).timer3
      _ = ((if hit then setOcf3a s else s).setTcnt3 w).timer3 := by rw [e]; rfl
      _ = ⟨w, setBitIf hit (s.byteAt aTIFR3) 1⟩ := by rw [State.timer3_setTcnt3, hflag]
      _ = s.timer3.pass s.ocr3a.toNat ((now - s.last.t3) / d) := by rw [hhit, hw]; rfl

theorem advance3_t3 (d now : Nat) (s : State) : (advance3 d now s).last.t3 = baselineAt d now s.last.t3 := by
  rcases advance3_cases d now s with ⟨rfl, e⟩ | ⟨hd, hk, e⟩ | ⟨hd, -, hit, w, -, -, e⟩
  · rw [e]; rfl
  · rw [e, baselineAt, if_neg hd, hk, Nat.zero_mul, Nat.add_zero]
  · rw [e, baselineAt, if_neg hd]
    cases hit <;> rfl

theorem catchUp4_t4 (now : Nat) (s : State) :
    (catchUp4 now s).last.t4 = baselineAt s.timerSettings.div4 now s.last.t4 := by
  change _ = baselineAt (divisor4 s) now s.last.t4
  rcases catchUp4_cases now s with ⟨hd, e⟩ | ⟨hd, hk, e⟩ | ⟨hd, -, m, old, ticks, t, -, -, rfl, -, e⟩
  · rw [e, hd]; rfl
  · rw [e, baselineAt, if_neg hd, hk, Nat.zero_mul, Nat.add_zero]
  · rw [e, baselineAt, if_neg hd]
    rfl

/-- R322's compare part by the number of matches: none, an even or an odd number. -/
theorem match4_eq {m : Nat} (hm : 0 < m) (target old ticks : Nat) (s : State) : match4 target m old ticks s
    = if 0 < matchCount m old target ticks then
        if matchCount m old target ticks % 2 = 1 then togglePortC (setOcf4a s) else setOcf4a s
      else s := by
  unfold match4
  by_cases h : target < m
  · rw [if_pos h, matchCount_eq h]
    by_cases hk : firstMatch m old target ≤ ticks
    · simp [hk]
    · simp [hk]
  · rw [if_neg h, matchCount_eq_zero hm (Nat.not_lt.mp h), if_neg (Nat.lt_irrefl 0)]

/-- Timer4's target and toggle mask read no flag byte, so setting a flag leaves them. -/
theorem t4Toggle_setTifr4 (s : State) (v : Byte) : t4Toggle (s.setByte aTIFR4 v) = t4Toggle s := by
  have hne : aDDRC ≠ aTIFR4 ∧ aTCCR4A ≠ aTIFR4 := by decide
  rw [t4Toggle, t4Toggle, State.byteAt_setByte_other s v hne.1, State.byteAt_setByte_other s v hne.2, State.setByte_params]

theorem State.timer4_setTifr4 (s : State) (v : Byte) : (s.setByte aTIFR4 v).timer4 = { s.timer4 with tifr := v } := by
  have hne : aTCNT4 ≠ aTIFR4 ∧ aTC4H ≠ aTIFR4 ∧ aPORTC ≠ aTIFR4 := by decide
  simp [State.timer4, State.byteAt_setByte, hne]

theorem State.timer4_setPortC (s : State) (v : Byte) : (s.setByte aPORTC v).timer4 = { s.timer4 with portc := v } := by
  have hne : aTCNT4 ≠ aPORTC ∧ aTC4H ≠ aPORTC ∧ aTIFR4 ≠ aPORTC := by decide
  simp [State.timer4, State.byteAt_setByte, hne]

theorem State.timer4_setTcnt4 (s : State) (n : Nat) : (s.setTcnt4 n).timer4 = { s.timer4 with
    tcnt := BitVec.ofNat 8 n, tc4h := (s.timer4.tc4h &&& 0xFC) ||| BitVec.ofNat 8 (n / 256 % 4) } := by
  have hne : aTCNT4 ≠ aTC4H ∧ aTIFR4 ≠ aTC4H ∧ aPORTC ≠ aTC4H ∧ aTIFR4 ≠ aTCNT4 ∧ aPORTC ≠ aTCNT4 := by decide
  simp [State.timer4, State.setTcnt4, State.byteAt_setByte, hne]

theorem match4_timer4 {m : Nat} (hm : 0 < m) (target old ticks : Nat) (s : State) :
    (match4 target m old ticks s).timer4 = { s.timer4 with
      tifr := setBitIf (decide (0 < matchCount m old target ticks)) s.timer4.tifr 6
      portc := if matchCount m old target ticks % 2 = 1 then s.timer4.portc ^^^ t4Toggle s else s.timer4.portc } := by
  rw [match4_eq hm]
  by_cases hsome : 0 < matchCount m old target ticks
  · have hportc : (setOcf4a s).byteAt aPORTC = s.byteAt aPORTC := State.byteAt_setByte_other s _ (by decide)
    by_cases hodd : matchCount m old target ticks % 2 = 1
    · rw [if_pos hsome, if_pos hodd, if_pos hodd, decide_eq_true hsome, togglePortC, State.timer4_setPortC, hportc, setOcf4a,
        t4Toggle_setTifr4, State.timer4_setTifr4]
      rfl
    · rw [if_pos hsome, if_neg hodd, if_neg hodd, decide_eq_true hsome, setOcf4a, State.timer4_setTifr4]
      rfl
  · rw [if_neg hsome, decide_eq_false hsome, if_neg (by omega)]
    rfl

theorem timer4_setTov4_if (c : Prop) [Decidable c] (s : State) :
    (if c then setTov4 s else s).timer4 = { s.timer4 with tifr := setBitIf (decide c) s.timer4.tifr 2 }
      ∧ t4Toggle (if c then setTov4 s else s) = t4Toggle s := by
  by_cases hc : c
  · rw [if_pos hc, decide_eq_true hc]
    exact ⟨s.timer4_setTifr4 _, t4Toggle_setTifr4 s _⟩
  · rw [if_neg hc, decide_eq_false hc]
    exact ⟨rfl, rfl⟩

theorem catchUp4_timer4 (now : Nat) (s : State) : (catchUp4 now s).timer4
    = s.timer4.pass s.timerSettings.modulus4 s.timerSettings.target4 s.timerSettings.toggle4
        ((now - s.last.t4) / s.timerSettings.div4) := by
  change _ = s.timer4.pass (s.params.t4Top + 1) (t4Compare s) (t4Toggle s) ((now - s.last.t4) / divisor4 s)
  rcases catchUp4_cases now s with ⟨hd, e⟩ | ⟨hd, hk, e⟩ | ⟨hd, hk, m, old, k, t, hm, hold, rfl, ht, e⟩
  · rw [e, hd, Nat.div_zero]; rfl
  · rw [e, hk]; rfl
  · obtain ⟨htimer, htoggle⟩ := timer4_setTov4_if (m ≤ old + (now - s.last.t4) / divisor4 s) s
    rw [← ht] at htimer htoggle
    rw [e, Timer4Regs.pass, if_neg hk, ← hm]
    change (State.setTcnt4 _ _).timer4 = _
    rw [State.timer4_setTcnt4, match4_timer4 (hm ▸ Nat.succ_pos _), htimer, htoggle, hold]
    rfl

end Sys2Proof.Machine
end

/-! PROOF. Timer0 (O56): its prescaler table, its catch-up, and the writes of TCNT0 and TCCR0B
(spec/60_exceptions.md R311, R312, R314, R315). -/

section
namespace Sys2Proof.Machine

/-! ### The catch-up (R312) -/

theorem Timer0Regs.pass_tcnt (k : Nat) (r : Timer0Regs) : (r.pass k).tcnt.toNat = (r.tcnt.toNat + k) % 256 :=
  BitVec.toNat_ofNat _ _

theorem Timer0Regs.pass_tifr (k : Nat) (r : Timer0Regs) (b : BitNo) : (r.pass k).tifr.getLsbD b.val
    = (r.tifr.getLsbD b.val || (decide (b = 0) && decide (256 ≤ r.tcnt.toNat + k))) := getLsbD_setBitIf _ r.tifr 0 b

theorem advance0_eq (d now : Nat) (s : State) :
    advance0 d now s = { s with data := (advance0 d now s).data, last := (advance0 d now s).last } := by
  have hq := advance0_quiet d now s
  rwa [quiet, advance0_memo] at hq

theorem bytesKept_advance0 (d now : Nat) (s : State) : bytesKept [aTCNT0, aTIFR0] s (advance0 d now s) := by
  have hq := advance0_quiet d now s
  refine ⟨fun a ha => ?_, fun a => by rw [quiet_eeprom hq], fun a => by rw [State.flashAt, quiet_flash hq, State.flashAt]⟩
  simp only [List.mem_cons, List.not_mem_nil, or_false, not_or] at ha
  exact advance0_byteAt d now s ha.1 ha.2

theorem catchUp0_refuse {now : Nat} {s : State} (h : 6 ≤ clockSelect (s.byteAt aTCCR0B)) :
    catchUp0 now s = refuse .timer0ClockSelect := by
  have hnone : prescale (clockSelect (s.byteAt aTCCR0B)) = none := by
    rw [← Option.isNone_iff_eq_none, ← Option.not_isSome, prescale_isSome, decide_eq_false (Nat.not_lt.mpr h)]
    rfl
  rw [catchUp0, catchUp0At, divisor0, hnone, refuse_bind]

/-! ### The writes (R314, R315) -/

theorem bytesKept_memWrite {a : Nat} {v : Byte} {s t : State} (h : memWrite a v s = .ok t) (ha : a ≠ aEECR) :
    bytesKept (writeBytesAt a) s t :=
  ⟨fun _ hb => memWrite_byteAt h hb, fun _ => memWrite_eeprom_read h (.inl ha),
    fun b => congrArg (·.read b) (storeFrame_flash (memWrite_frame h))⟩

theorem plainHome_tcnt0 : plainHome aTCNT0 := by refine ⟨?_, ?_, ?_, ?_⟩ <;> decide

theorem plainHome_tccr0b : plainHome aTCCR0B := by refine ⟨?_, ?_, ?_, ?_⟩ <;> decide

/-- A write of TCNT0 is to the caught-up state. -/
theorem memWrite_tcnt0 {s m : State} (v : Byte) (hm : catchUp0 s.cycles s = .ok m) :
    memWrite aTCNT0 v s = .ok (reactTcnt0 (m.byteAt aTCNT0) v (m.setByte aTCNT0 v)) := by
  refine memWrite_eq_ok.mpr ⟨by decide, m, hm, ?_⟩
  rw [m.rawRead_plain plainHome_tcnt0, m.rawWrite_plain v plainHome_tcnt0]
  rfl

theorem reactTcnt0_tifr (old v : Byte) (s : State) :
    (reactTcnt0 old v s).byteAt aTIFR0 = setBitIf (decide (v.toNat < old.toNat)) (s.byteAt aTIFR0) 0 := by
  unfold reactTcnt0
  by_cases h : v.toNat < old.toNat
  · rw [if_pos h, decide_eq_true h]
    exact State.byteAt_setByte_same s _ _
  · rw [if_neg h, decide_eq_false h]
    rfl

theorem reactTcnt0_keeps (old v : Byte) (s : State) :
    (∀ a, a ≠ aTIFR0 → (reactTcnt0 old v s).byteAt a = s.byteAt a) ∧ (reactTcnt0 old v s).last = s.last := by
  rcases reactTcnt0_cases old v s with e | e <;> rw [e]
  · exact ⟨fun _ _ => rfl, rfl⟩
  · exact ⟨fun _ ha => State.byteAt_setByte_other s _ ha, rfl⟩

/-- The state after a write of TCCR0B where the select before it divides by `d`: caught up at that rate, the prescaler
restarted where the select changes. -/
def State.tccr0bWritten (d : Nat) (v : Byte) (s : State) : State :=
  if clockSelect v = clockSelect (s.byteAt aTCCR0B) then advance0 d s.cycles (s.setByte aTCCR0B v)
  else (advance0 d s.cycles (s.setByte aTCCR0B v)).setLastT0 s.cycles

theorem memWrite_tccr0b {s : State} {d : Nat} (v : Byte) (hd : prescale (clockSelect (s.byteAt aTCCR0B)) = some d) :
    memWrite aTCCR0B v s = .ok (s.tccr0bWritten d v) := by
  refine memWrite_eq_ok.mpr ⟨by decide, s, refresh_plain s (by unfold hookedRead; decide), ?_⟩
  rw [s.rawRead_plain plainHome_tccr0b, s.rawWrite_plain v plainHome_tccr0b]
  exact reactTccr0b_eq_ok.mpr ⟨_, catchUp0At_eq_ok.mpr ⟨d, hd, rfl⟩, rfl⟩

theorem State.tccr0bWritten_byteAt (d : Nat) (v : Byte) (s : State) (a : Nat) :
    (s.tccr0bWritten d v).byteAt a = (advance0 d s.cycles (s.setByte aTCCR0B v)).byteAt a := by
  unfold tccr0bWritten
  split <;> rfl

/-- Timer0 is caught up as it would be without the write. -/
theorem State.tccr0bWritten_timer0 (d : Nat) (v : Byte) (s : State) :
    (s.tccr0bWritten d v).timer0 = (advance0 d s.cycles s).timer0 := by
  have hregs : (s.setByte aTCCR0B v).timer0 = s.timer0 := by
    simp (disch := decide) only [timer0, State.byteAt_setByte_other]
  rw [advance0_timer0, ← hregs, timer0, tccr0bWritten_byteAt, tccr0bWritten_byteAt]
  exact advance0_timer0 d s.cycles (s.setByte aTCCR0B v)

theorem State.tccr0bWritten_t0 (d : Nat) (v : Byte) (s : State) : (s.tccr0bWritten d v).last.t0
    = if clockSelect v = clockSelect (s.byteAt aTCCR0B) then (advance0 d s.cycles s).last.t0 else s.cycles := by
  rw [tccr0bWritten, advance0_t0]
  split
  · exact advance0_t0 d s.cycles (s.setByte aTCCR0B v)
  · rfl

/-- Settles O56: timer0's registers pass the ticks since the baseline; a write of TCNT0 comes after that, and one of TCCR0B
does not disturb it. -/
theorem timer0 : Obligations.Timer0 := by
  refine ⟨by decide, ?_, fun now s h => catchUp0_refuse h, ?_, ?_⟩
  · rintro now d k s hd rfl
    have hregs := advance0_timer0 d now s
    refine ⟨advance0 d now s, catchUp0At_eq_ok.mpr ⟨d, hd, rfl⟩, ?_, fun b => ?_, ?_, bytesKept_advance0 d now s,
      advance0_eq d now s⟩
    · exact (congrArg (fun r : Timer0Regs => r.tcnt.toNat) hregs).trans (Timer0Regs.pass_tcnt _ _)
    · exact (congrArg (fun r : Timer0Regs => r.tifr.getLsbD b.val) hregs).trans (Timer0Regs.pass_tifr _ _ b)
    · rw [(advance0_last d now s).1, advance0_t0]
      rfl
  · intro v s m hm
    have hw := memWrite_tcnt0 v hm
    obtain ⟨hbyte, hlast⟩ := reactTcnt0_keeps (m.byteAt aTCNT0) v (m.setByte aTCNT0 v)
    refine ⟨_, hw, ?_, fun b => ?_, hlast, bytesKept_memWrite hw (by decide)⟩
    · exact (hbyte aTCNT0 (by decide)).trans (State.byteAt_setByte_same m _ v)
    · have htifr := reactTcnt0_tifr (m.byteAt aTCNT0) v (m.setByte aTCNT0 v)
      rw [State.byteAt_setByte_other m v (by decide)] at htifr
      exact (congrArg (·.getLsbD b.val) htifr).trans (getLsbD_setBitIf _ (m.byteAt aTIFR0) 0 b)
  · intro v s m hm
    obtain ⟨d, hd, rfl⟩ := catchUp0At_eq_ok.mp hm
    have hw := memWrite_tccr0b v hd
    have hregs := s.tccr0bWritten_timer0 d v
    refine ⟨_, hw, ?_, congrArg Timer0Regs.tcnt hregs, congrArg Timer0Regs.tifr hregs, bytesKept_memWrite hw (by decide),
      s.tccr0bWritten_t0 d v⟩
    exact (s.tccr0bWritten_byteAt d v aTCCR0B).trans
      ((advance0_byteAt d s.cycles _ (by decide) (by decide)).trans (State.byteAt_setByte_same s _ v))

end Sys2Proof.Machine
end

/-! PROOF. The catch-up of all timers (O58): what of the state sets the ticks' effects is kept by every catch-up, so that the ticks
of two catch-ups add up (spec/60_exceptions.md R310, R326). -/

section
namespace Sys2Proof.Machine

/-! ### All timers -/

/-- They are read from no byte that a catch-up changes. -/
theorem State.timerSettings_eq {s t : State} (hsteady : compareSteady s.params) (hq : quiet s t)
    (hb : ∀ a, a ∉ timerBytes → t.byteAt a = s.byteAt a) : t.timerSettings = s.timerSettings := by
  have htarget : t4Compare t = t4Compare s := hsteady s t rfl hq hb
  simp only [timerSettings, ocr3a, divisor4, t4Toggle, htarget, quiet_params hq, hb aTCCR0B (by decide), hb aTCCR3B (by decide),
    hb aOCR3AH (by decide), hb aOCR3AL (by decide), hb aTCCR4B (by decide), hb aDDRC (by decide), hb aTCCR4A (by decide)]

/-- Where the timers' registers agree and all other bytes do, all bytes do. -/
theorem byteAt_eq_of_timers {s t : State} (h0 : t.timer0 = s.timer0) (h3 : t.timer3 = s.timer3) (h4 : t.timer4 = s.timer4)
    (hb : ∀ a, a ∉ timerBytes → t.byteAt a = s.byteAt a) (a : Nat) : t.byteAt a = s.byteAt a := by
  by_cases ha : a ∈ timerBytes
  · have hlow := congrArg (fun r : Timer3Regs => lo8 r.count) h3
    have hhigh := congrArg (fun r : Timer3Regs => hi8 r.count) h3
    simp only [State.timer3, State.tcnt3, lo8_word16, hi8_word16] at hlow hhigh
    simp only [timerBytes, List.mem_cons, List.not_mem_nil, or_false] at ha
    rcases ha with rfl | rfl | rfl | rfl | rfl | rfl | rfl | rfl | rfl
    · exact congrArg Timer0Regs.tcnt h0
    · exact congrArg Timer0Regs.tifr h0
    · exact hlow
    · exact hhigh
    · exact congrArg Timer3Regs.tifr h3
    · exact congrArg Timer4Regs.tcnt h4
    · exact congrArg Timer4Regs.tc4h h4
    · exact congrArg Timer4Regs.tifr h4
    · exact congrArg Timer4Regs.portc h4
  · exact hb a ha

/-- What a catch-up of all timers makes of their registers and baselines: each passes its own ticks. -/
structure CaughtUp (now : Nat) (s v : State) : Prop where
  timer0 : v.timer0 = s.timer0.pass ((now - s.last.t0) / s.timerSettings.div0)
  timer3 : v.timer3 = s.timer3.pass s.timerSettings.target3 ((now - s.last.t3) / s.timerSettings.div3)
  timer4 : v.timer4 = s.timer4.pass s.timerSettings.modulus4 s.timerSettings.target4 s.timerSettings.toggle4
    ((now - s.last.t4) / s.timerSettings.div4)
  last : v.last = { s.last with
    t0 := baselineAt s.timerSettings.div0 now s.last.t0
    t3 := baselineAt s.timerSettings.div3 now s.last.t3
    t4 := baselineAt s.timerSettings.div4 now s.last.t4 }
  settings : v.timerSettings = s.timerSettings
  bytes : ∀ a, a ∉ timerBytes → v.byteAt a = s.byteAt a

/-- The state in which `catchUpAll` catches timer4 up: the settings are still those it started with. -/
theorem timerSettings_advance (d e now : Nat) {s : State} (hsteady : compareSteady s.params) :
    (advance3 e now (advance0 d now s)).timerSettings = s.timerSettings := by
  refine State.timerSettings_eq hsteady (quiet_trans (advance0_quiet d now s) (quiet_advance3 e now _)) fun a ha => ?_
  simp only [timerBytes, List.mem_cons, List.not_mem_nil, not_or] at ha
  obtain ⟨h0, h1, h2, h3, h4, -⟩ := ha
  rw [advance3_byteAt e now _ h2 h3 h4, advance0_byteAt d now s h0 h1]

theorem caughtUp_of_catchUpAll {now : Nat} {s v : State} (hsteady : compareSteady s.params) (h : catchUpAll now s = .ok v) :
    CaughtUp now s v := by
  have hbytes : ∀ a, a ∉ timerBytes → v.byteAt a = s.byteAt a := fun a => catchUpAll_byteAt h
  have hsettings := State.timerSettings_eq hsteady (catchUpAll_quiet h) hbytes
  obtain ⟨t, u, ht, hu, rfl⟩ := catchUpAll_eq_ok.mp h
  obtain ⟨d, hd, rfl⟩ := catchUp0At_eq_ok.mp ht
  obtain ⟨-, e, he, rfl⟩ := catchUp3_eq_ok.mp hu
  have hlast0 := (advance0_last d now s).1
  have hlast3 := (advance3_last e now (advance0 d now s)).1
  have hd0 : s.timerSettings.div0 = d := by rw [State.timerSettings, hd, Option.getD_some]
  have hd3 : s.timerSettings.div3 = e := by
    rw [advance0_byteAt d now s (by decide) (by decide)] at he
    rw [State.timerSettings, he, Option.getD_some]
  refine ⟨?_, ?_, ?_, ?_, hsettings, hbytes⟩
  · rw [hd0, ← advance0_timer0]
    simp (disch := decide) only [State.timer0, catchUp4_byteAt, advance3_byteAt]
  · have hbefore : (advance0 d now s).timer3 = s.timer3 ∧ (advance0 d now s).ocr3a = s.ocr3a := by
      simp (disch := decide) only [State.timer3, State.tcnt3, State.ocr3a, advance0_byteAt, and_self]
    have hafter := advance3_timer3 e now (advance0 d now s)
    rw [hbefore.1, hbefore.2, hlast0] at hafter
    rw [hd3]
    refine Eq.trans ?_ hafter
    simp (disch := decide) only [State.timer3, State.tcnt3, catchUp4_byteAt]
  · have hbefore : (advance3 e now (advance0 d now s)).timer4 = s.timer4 := by
      simp (disch := decide) only [State.timer4, advance3_byteAt, advance0_byteAt]
    rw [catchUp4_timer4, timerSettings_advance d e now hsteady, hbefore, hlast3, hlast0]
  · rw [(catchUp4_last now _).1, catchUp4_t4, timerSettings_advance d e now hsteady, hlast3, advance3_t3, hlast0,
      advance0_t0, hd0, hd3]

/-- Two catch-ups in a row are one. -/
theorem CaughtUp.trans {m n : Nat} {s t u v : State} (hmn : m ≤ n) (htop : s.params.t4Top ≤ 1023) (ht : CaughtUp m s t)
    (hv : CaughtUp n t v) (hu : CaughtUp n s u) : (∀ a, v.byteAt a = u.byteAt a) ∧ v.last = u.last := by
  have hmod : s.timerSettings.modulus4 = s.params.t4Top + 1 := rfl
  refine ⟨byteAt_eq_of_timers ?_ ?_ ?_ fun a ha => ?_, ?_⟩
  · rw [hv.timer0, hu.timer0, ht.timer0, ht.last, ht.settings, Timer0Regs.pass_pass, ← ticks_split hmn]
  · rw [hv.timer3, hu.timer3, ht.timer3, ht.last, ht.settings, Timer3Regs.pass_pass, ← ticks_split hmn]
  · rw [hv.timer4, hu.timer4, ht.timer4, ht.last, ht.settings, Timer4Regs.pass_pass (by omega) (by omega), ← ticks_split hmn]
  · rw [hv.bytes a ha, ht.bytes a ha, hu.bytes a ha]
  · rw [hv.last, hu.last, ht.last, ht.settings]
    simp only [baselineAt_baselineAt hmn]

/-- Settles O58: the ticks to `n` are those to `m` and the further ones. -/
theorem catchUpSplits : Obligations.CatchUpSplits := by
  intro m n s t u v hmn htop hsteady hu ht hv
  have hparams := quiet_params (catchUpAll_quiet ht)
  exact (caughtUp_of_catchUpAll hsteady ht).trans hmn htop (caughtUp_of_catchUpAll (hparams ▸ hsteady) hv)
    (caughtUp_of_catchUpAll hsteady hu)

end Sys2Proof.Machine
end

/-! PROOF. The bytes whose write calls the host (O54): SPDR and the ports (spec/20_memory.md R77, R81,
spec/70_reset_and_hazards.md R349). -/

section
namespace Sys2Proof.Machine

/-! ### SPDR (R77) -/

section
variable {s : State}

theorem memWrite_spdr_of_detached (v : Byte) (h : s.params.spiAttached = false) :
    memWrite aSPDR v s = .ok ((s.setByte aSPDR v).setByte aSPDR 0) :=
  congrArg Except.ok (if_neg (ne_true_of_eq_false h))

/-- The host is told the byte sent, and the free value it answers with takes its place. -/
theorem memWrite_spdr_of_attached (v : Byte) (h : s.params.spiAttached = true) :
    memWrite aSPDR v s = .ok { (s.setByte aSPDR v).setByte aSPDR (Config.spiReply s.draws) with
      draws := s.draws + 1
      hostLog := .spiShift v :: s.hostLog } :=
  congrArg Except.ok (if_pos h)

end

/-! ### The ports (R81) -/

/-- Every port register is an I/O address that SBI and CBI reach. -/
theorem lowIo_of_portAt {a : Nat} {p : Port} (h : portAt a = some p) : lowIo a := by
  unfold portAt at h
  split_ifs at h with hb hc hd he hf
  · exact hb ▸ ⟨by decide, by decide⟩
  · exact hc ▸ ⟨by decide, by decide⟩
  · exact hd ▸ ⟨by decide, by decide⟩
  · exact he ▸ ⟨by decide, by decide⟩
  · exact hf ▸ ⟨by decide, by decide⟩

theorem State.storeLowIo_of_portAt {a : Nat} {p : Port} (v : Byte) (s : State) (h : portAt a = some p) :
    s.storeLowIo a v = { s.setByte a v with hostLog := .pinChange p (s.byteAt a) v :: s.hostLog } := by
  rw [State.storeLowIo, h, Option.elim_some]

/-- Settles O54: what the write answers is known whole, and of the memories it writes the one byte. -/
theorem spiAndPorts : Obligations.SpiAndPorts := by
  refine ⟨fun v s hspi => ?_, fun v s hspi => ?_, fun a p v s hp => ?_⟩
  · have hw := memWrite_spdr_of_detached v hspi
    exact ⟨_, hw, State.byteAt_setByte_same _ aSPDR 0, bytesKept_memWrite hw (by decide), rfl⟩
  · have hw := memWrite_spdr_of_attached v hspi
    exact ⟨_, hw, State.byteAt_setByte_same _ aSPDR _, bytesKept_memWrite hw (by decide), rfl⟩
  · have hw := memWrite_lowIo (s := s) v (lowIo_of_portAt hp)
    rw [State.storeLowIo_of_portAt v s hp] at hw
    exact ⟨_, hw, s.byteAt_setByte_same a v, bytesKept_setByte s a v, rfl⟩

end Sys2Proof.Machine
end

/-! PROOF. An awake step (O6): the decoder on the four bytes from pc on and the fetch agree where the instruction's words are
inside flash, so that the step is the instruction's meaning and then the tail (spec/70_reset_and_hazards.md R345, R346,
spec/30_encoding.md R100). -/

section
namespace Sys2Proof.Machine

/-! ### The decoder and the fetch (R100, R346) -/

/-- Four bytes are one instruction of two words, or one of one word and the two bytes after it. -/
theorem decode_four_bytes {lo hi lo2 hi2 : Byte} {i : Instr} {rest : List Byte}
    (h : decode [lo, hi, lo2, hi2] = .ok (i, rest)) :
    ∃ j, decodeWords (wordOfBytes lo hi) 0 = some j
      ∧ (if is2Word (wordOfBytes lo hi) then decodeWords (wordOfBytes lo hi) (wordOfBytes lo2 hi2) = some i ∧ rest = []
        else i = j) := by
  simp only [decode] at h
  split at h
  · cases h
  · next j hj =>
    refine ⟨j, hj, ?_⟩
    split at h
    · next h2 =>
      rw [if_pos h2]
      split at h
      · next k hk =>
        cases h
        exact ⟨hk, rfl⟩
      · cases h
    · next h1 =>
      rw [if_neg h1]
      cases h
      rfl

/-- The fetch of an instruction whose words are inside flash gives what the decoder reads from its bytes. -/
theorem fetch_of_decode {s : State} {i : Instr} {rest : List Byte} (hpc : s.pc.toNat < 16384)
    (h : decode [s.flashAt (2 * s.pc.toNat), s.flashAt (2 * s.pc.toNat + 1), s.flashAt (2 * s.pc.toNat + 2),
      s.flashAt (2 * s.pc.toNat + 3)] = .ok (i, rest))
    (hsecond : rest = [] → s.pc.toNat + 1 < 16384) : fetch s = .ok i := by
  obtain ⟨j, hj, hi⟩ := decode_four_bytes h
  refine fetch_eq_ok.mpr ⟨wordOfBytes _ _, j, State.flashWord_eq_ok.mpr ⟨hpc, rfl⟩, hj, ?_⟩
  split at hi
  · next h2 =>
    rw [if_pos h2]
    exact ⟨_, State.flashWord_eq_ok.mpr ⟨hsecond hi.2, rfl⟩, hi.1⟩
  · next h1 =>
    rw [if_neg h1]
    exact hi

/-! ### The step (R345) -/

theorem step_of_fetch {s : State} {i : Instr} (hprog : s.hasProgram = true) (hawake : s.sleeping = false)
    (h : fetch s = .ok i) : step s = thenTail (exec i (observe s)) := by
  have hbody : stepBody s = exec i (observe s) := by
    rw [stepBody, hawake, if_neg Bool.false_ne_true, runInstr, h]
  rw [step, stepCore, if_pos hprog, hbody]

/-- The sample is numbered by the row the word at pc hits, the breakpoint check comes before it (60_exceptions.md R305). -/
theorem observe_of_flashWord {s : State} {w : Word} (h : s.flashWord s.pc.toNat = .ok w) :
    observe s = { s with
      hostLog := if s.params.analyticsHooks then .sample (opcodeIndex w) s.pc :: notified .breakpointCheck s
        else notified .breakpointCheck s } := by
  obtain ⟨-, rfl⟩ := State.flashWord_eq_ok.mp h
  rfl

/-- Settles O6: the bytes from pc on are the instruction the step fetches. -/
theorem stepRunsDecodedInstruction : Obligations.StepRunsDecodedInstruction := by
  refine ⟨fun s i rest hprog hawake hpc hdec hsecond => ?_, fun s w n hw hn => ?_⟩
  · rw [step_of_fetch hprog hawake (fetch_of_decode hpc hdec hsecond)]
    cases exec i (observe s) with
    | next t => rfl
    | fault f => rfl
    | refused r => rfl
  · rw [hn]
    exact observe_of_flashWord hw

end Sys2Proof.Machine
end

/-! PROOF. From an instruction to its words and back (O1): the first word of an encoding selects the instruction's own row and no
other, so that the decoder reads the instruction from it (spec/30_encoding.md R100, R101, R104, R106). -/

section
namespace Sys2Proof.Laws.RowHit

/-- Each of the 85 instructions by its own law. -/
theorem statement_holds : ∀ i : Instr, Statement i
  | .nop => nop | .movw d r => movw d r | .muls d r => muls d r | .mulsu d r => mulsu d r | .fmul d r => fmul d r
  | .fmuls d r => fmuls d r | .fmulsu d r => fmulsu d r | .cpc d r => cpc d r | .sbc d r => sbc d r | .add d r => add d r
  | .cpse d r => cpse d r | .cp d r => cp d r | .sub d r => sub d r | .adc d r => adc d r | .and d r => and d r
  | .eor d r => eor d r | .or d r => or d r | .mov d r => mov d r | .cpi d k8 => cpi d k8 | .sbci d k8 => sbci d k8
  | .subi d k8 => subi d k8 | .ori d k8 => ori d k8 | .andi d k8 => andi d k8 | .lddZ d q => lddZ d q
  | .lddY d q => lddY d q | .stdZ q r => stdZ q r | .stdY q r => stdY q r | .lds d a => lds d a | .ldZInc d => ldZInc d
  | .ldZDec d => ldZDec d | .lpmZ d => lpmZ d | .lpmZInc d => lpmZInc d | .ldYInc d => ldYInc d | .ldYDec d => ldYDec d
  | .ldX d => ldX d | .ldXInc d => ldXInc d | .ldXDec d => ldXDec d | .pop d => pop d | .sts a r => sts a r
  | .stZInc r => stZInc r | .stZDec r => stZDec r | .stYInc r => stYInc r | .stYDec r => stYDec r | .stX r => stX r
  | .stXInc r => stXInc r | .stXDec r => stXDec r | .push r => push r | .com d => com d | .neg d => neg d
  | .swap d => swap d | .inc d => inc d | .asr d => asr d | .lsr d => lsr d | .ror d => ror d | .bset f => bset f
  | .bclr f => bclr f | .ijmp => ijmp | .dec d => dec d | .jmp k => jmp k | .call k => call k | .ret => ret
  | .icall => icall | .reti => reti | .sleep => sleep | .brk => brk | .wdr => wdr | .lpm => lpm | .adiw d k6 => adiw d k6
  | .sbiw d k6 => sbiw d k6 | .cbi a b => cbi a b | .sbic a b => sbic a b | .sbi a b => sbi a b | .sbis a b => sbis a b
  | .mul d r => mul d r | .ioIn d a => ioIn d a | .ioOut a r => ioOut a r | .rjmp k => rjmp k | .rcall k => rcall k
  | .ldi d k8 => ldi d k8 | .brbs f k => brbs f k | .brbc f k => brbc f k | .bld d b => bld d b | .bst d b => bst d b
  | .sbrc r b => sbrc r b | .sbrs r b => sbrs r b

end Sys2Proof.Laws.RowHit

namespace Sys2Proof

/-! ### The decoder on a word that selects a row -/

/-- No other row being selected, the decoder reads what this row builds (R101, R107). -/
theorem decodeWords_of_hits {row : OpcodeRow} {w : Word} (hrow : row ∈ opcodeTable) (hw : row.hits w = true) (w2 : Word) :
    decodeWords w w2 = some (row.build w w2) := by
  obtain ⟨found, hfind⟩ := Option.isSome_iff_exists.mp
    (List.find?_isSome (p := fun row : OpcodeRow => row.hits w) |>.mpr ⟨row, hrow, hw⟩)
  have hhits : found.hits w = true := List.find?_some (p := fun row : OpcodeRow => row.hits w) hfind
  rw [decodeWords, hfind, Option.map_some, eq_of_hits (List.mem_of_find?_eq_some hfind) hrow hhits hw]

/-! ### The decoder on the bytes of an encoding (R100) -/

theorem wordOfBytes_extract (w : Word) : wordOfBytes (w.extractLsb' 0 8) (w.extractLsb' 8 8) = w :=
  Laws.RowHit.rejoin (a := 8) (b := 8) w

theorem decode_one_word {w : Word} {i : Instr} (hi : decodeWords w 0 = some i) (h1 : is2Word w = false)
    (rest : List Byte) : decode (bytesOfWords [w] ++ rest) = .ok (i, rest) := by
  simp only [bytesOfWords, List.cons_append, List.nil_append, decode, wordOfBytes_extract, hi, h1, Bool.false_eq_true, if_false]

theorem decode_two_words {w w2 : Word} {i j : Instr} (hi : decodeWords w 0 = some i) (hj : decodeWords w w2 = some j)
    (h2 : is2Word w = true) (rest : List Byte) : decode (bytesOfWords [w, w2] ++ rest) = .ok (j, rest) := by
  simp only [bytesOfWords, List.cons_append, List.nil_append, decode, wordOfBytes_extract, hi, hj, h2, if_true]

theorem opcodeTable_words : ∀ row ∈ opcodeTable, row.words = 1 ∨ row.words = 2 := by decide

/-- Settles O1: the encoding's length is its row's, which `is2Word` tells from the first word. -/
theorem decodeOfEncode : Obligations.DecodeOfEncode := by
  intro i rest hwf
  obtain ⟨row, hrow, w, operands, henc, hhits, hlen, hbuild⟩ := Laws.RowHit.statement_holds i hwf
  have hread := decodeWords_of_hits hrow hhits
  have h2 := is2Word_iff_of_hits hrow hhits
  rw [henc]
  match operands with
  | [] => exact decode_one_word ((hread 0).trans (congrArg some hbuild)) (Bool.eq_false_iff.mpr (by simp [h2, ← hlen])) rest
  | [w2] => exact decode_two_words (hread 0) ((hread w2).trans (congrArg some hbuild)) (h2.mpr hlen.symm) rest
  | _ :: _ :: _ =>
    have hwords := opcodeTable_words row hrow
    simp only [List.length_cons] at hlen
    omega

end Sys2Proof
end

/-! PROOF. The words of R108 are all the unhandled ones (O4): the rows of the opcode table and the classes of R108 are patterns of
fixed bits, and a search that fixes the bits of a word one by one finds every word under one of them (spec/30_encoding.md R101,
R106, R108). -/

section
namespace Sys2Proof.Machine

/-! ### Patterns of fixed bits, and a search for the words that meet none -/

/-- The words whose bits under `mask` are those of `pat`. -/
structure BitPattern where
  mask : Word
  pat : Word

def BitPattern.Matches (q : BitPattern) (w : Word) : Prop := w &&& q.mask = q.pat

/-- Every bit that `c` fixes, `q` fixes the same. -/
def BitPattern.within (q c : BitPattern) : Bool := decide (q.mask &&& c.mask = c.mask) && decide (q.pat &&& c.mask = c.pat)

/-- Bit `b` fixed too. -/
def BitPattern.fix (q : BitPattern) (b : Nat) (x : Bool) : BitPattern :=
  ⟨q.mask ||| BitVec.twoPow 16 b, q.pat ||| if x then BitVec.twoPow 16 b else 0⟩

/-- The bits that both fix, both fix the same. -/
def BitPattern.meets (q c : BitPattern) : Bool := decide (q.pat &&& c.mask = c.pat &&& q.mask)

/-- Every word of `q` is of a pattern of `cs`: `q` lies within one, or each of its halves by the next bit is covered by the
patterns that meet it. -/
def BitPattern.coveredBy : List BitPattern → List Nat → BitPattern → Bool
  | cs, [], q => cs.any q.within
  | cs, b :: bits, q => cs.any q.within
      || ((coveredBy (cs.filter (q.fix b false).meets) bits (q.fix b false))
        && coveredBy (cs.filter (q.fix b true).meets) bits (q.fix b true))

section
variable {q c : BitPattern} {cs : List BitPattern} {w : Word}

theorem BitPattern.Matches.of_within (hq : q.Matches w) (h : q.within c = true) : c.Matches w := by
  simp only [within, Bool.and_eq_true, decide_eq_true_eq] at h
  rw [Matches, ← h.1, ← BitVec.and_assoc, hq, h.2]

theorem BitPattern.Matches.fix (hq : q.Matches w) (b : Nat) : (q.fix b (w.getLsbD b)).Matches w := by
  rw [Matches, BitPattern.fix, BitVec.and_or_distrib_left, hq, BitVec.and_twoPow]
  rfl

theorem BitPattern.exists_matches_of_any (h : cs.any q.within = true) (hq : q.Matches w) : ∃ c ∈ cs, c.Matches w := by
  obtain ⟨c, hc, hqc⟩ := List.any_eq_true.mp h
  exact ⟨c, hc, hq.of_within hqc⟩

/-- The half that `w` is in finds it. -/
theorem BitPattern.exists_matches_of_coveredBy {bits : List Nat} (h : coveredBy cs bits q = true) (hq : q.Matches w) :
    ∃ c ∈ cs, c.Matches w := by
  induction bits generalizing q cs with
  | nil => exact exists_matches_of_any h hq
  | cons b bits ih =>
    rcases Bool.or_eq_true_iff.mp h with h | h
    · exact exists_matches_of_any h hq
    · have half : coveredBy (cs.filter (q.fix b (w.getLsbD b)).meets) bits (q.fix b (w.getLsbD b)) = true := by
        obtain ⟨h0, h1⟩ := Bool.and_eq_true_iff.mp h
        cases w.getLsbD b
        · exact h0
        · exact h1
      obtain ⟨c, hc, hcw⟩ := ih half (hq.fix b)
      exact ⟨c, List.mem_of_mem_filter hc, hcw⟩

end

/-! ### The rows of R106 and the classes of R108 -/

def rowPatterns : List BitPattern := opcodeTable.map fun row => ⟨row.mask, row.pat⟩

def reservedPatterns : List BitPattern := reservedClasses.map fun c => ⟨c.mask, c.pat⟩

/-- Together they are all words: the search, the bits that the masks test most first, ends with every word found. -/
theorem all_words_covered : BitPattern.coveredBy (rowPatterns ++ reservedPatterns)
    [15, 14, 13, 12, 11, 10, 9, 3, 2, 1, 0, 8, 7, 6, 5, 4] ⟨0, 0⟩ = true := by
  decide

theorem decodeWords_ne_none_of_hits {row : OpcodeRow} {w : Word} (w2 : Word) (hrow : row ∈ opcodeTable)
    (h : row.hits w = true) : decodeWords w w2 ≠ none := by
  intro hnone
  exact List.find?_eq_none.mp (Option.map_eq_none_iff.mp hnone) row hrow h

theorem exempt_has_row : ∀ c ∈ reservedClasses, (c.exempt.all fun x => opcodeTable.any fun row => row.hits x) = true := by
  decide

/-- A word outside the table is in a class of R108, and is not the class's exempt word, which has a row. -/
theorem exists_reservedClass_of_unhandled {w w2 : Word} (h : decodeWords w w2 = none) :
    ∃ c ∈ reservedClasses, w &&& c.mask = c.pat ∧ w ∉ c.exempt := by
  have hall : BitPattern.Matches ⟨0, 0⟩ w := BitVec.and_zero
  obtain ⟨q, hq, hqw⟩ := BitPattern.exists_matches_of_coveredBy all_words_covered hall
  rcases List.mem_append.mp hq with hq | hq
  · obtain ⟨row, hrow, rfl⟩ := List.mem_map.mp hq
    exact absurd h (decodeWords_ne_none_of_hits w2 hrow (decide_eq_true hqw))
  · obtain ⟨c, hc, rfl⟩ := List.mem_map.mp hq
    refine ⟨c, hc, hqw, fun hw => ?_⟩
    obtain ⟨row, hrow, hhits⟩ := List.any_eq_true.mp (List.all_eq_true.mp (exempt_has_row c hc) w hw)
    exact decodeWords_ne_none_of_hits w2 hrow hhits h

/-! ### A class's words are in its row of R108 -/

theorem lt_of_and_upper_byte {w : Word} (h : w &&& 0xFF00 = 0) : w.toNat < 256 := by
  have hhi : hi8 w = hi8 (w &&& 0xFF00) := by
    rw [hi8, hi8, BitVec.extractLsb'_and]
    exact BitVec.and_allOnes.symm
  have hzero := congrArg BitVec.toNat hhi
  rw [h, toNat_hi8, toNat_hi8] at hzero
  exact Nat.lt_of_div_eq_zero (by decide) hzero

theorem upper_and_low_of_and {w p : Word} {low : Nat} (hp : p &&& 0xFE00 = p) (hlow : low < 16)
    (h : w &&& 0xFE0F = p ||| BitVec.ofNat 16 low) : w &&& 0xFE00 = p ∧ w.toNat % 16 = low := by
  have hbits : ∀ l : Fin 16, BitVec.ofNat 16 l.val &&& 0xFE00 = (0 : Word)
      ∧ BitVec.ofNat 16 l.val &&& 0x000F = (BitVec.ofNat 16 l.val : Word) := by decide
  obtain ⟨hup, hdown⟩ := hbits ⟨low, hlow⟩
  have hpdown : p &&& 0x000F = 0 := by rw [← hp, BitVec.and_assoc]; exact BitVec.and_zero
  have hupper : w &&& 0xFE00 = (w &&& 0xFE0F) &&& 0xFE00 := (BitVec.and_assoc w 0xFE0F 0xFE00).symm
  have hlower : w &&& 0x000F = (w &&& 0xFE0F) &&& 0x000F := (BitVec.and_assoc w 0xFE0F 0x000F).symm
  rw [h, BitVec.and_or_distrib_right, hp, hup] at hupper
  rw [h, BitVec.and_or_distrib_right, hpdown, hdown] at hlower
  refine ⟨hupper.trans BitVec.or_zero, ?_⟩
  calc w.toNat % 16 = (w &&& 0x000F).toNat := (Nat.and_two_pow_sub_one_eq_mod w.toNat 4).symm
    _ = (BitVec.ofNat 16 low).toNat := by rw [hlower]; exact congrArg BitVec.toNat BitVec.zero_or
    _ = low := (BitVec.toNat_ofNat _ _).trans (Nat.mod_eq_of_lt (by omega))

/-- The converse of `exists_reservedClass`. -/
theorem reservedWord_of_class {c : ReservedClass} {w : Word} (hc : c ∈ reservedClasses) (hw : w &&& c.mask = c.pat)
    (hexempt : w ∉ c.exempt) : reservedWord w = true := by
  have hne : ∀ n, c.exempt = [BitVec.ofNat 16 n] → w.toNat ≠ n := fun n he e =>
    hexempt (he ▸ List.mem_singleton.mpr (e ▸ (ofNat_toNat_word w).symm))
  simp only [reservedClasses, List.mem_append, List.mem_map] at hc
  simp only [reservedWord, Bool.or_eq_true, Bool.and_eq_true, decide_eq_true_eq, List.contains_eq_mem]
  rcases hc with (((((hc | ⟨low, hl, rfl⟩) | ⟨low, hl, rfl⟩) | ⟨low, hl, rfl⟩) | hc) | ⟨n, hn, rfl⟩) | hc
  · obtain rfl := List.mem_singleton.mp hc
    exact .inl (.inl (.inl (.inl (.inl (.inl (.inl
      ⟨Nat.one_le_iff_ne_zero.mpr (hne 0 rfl), Nat.le_of_lt_succ (lt_of_and_upper_byte hw)⟩))))))
  · have hlow : ∀ l ∈ [3, 6, 7, 8, 11], l < 16 := by decide
    obtain ⟨hup, hmod⟩ := upper_and_low_of_and rfl (hlow low hl) hw
    exact .inl (.inl (.inl (.inl (.inl (.inl (.inr ⟨hup, hmod ▸ hl⟩))))))
  · have hlow : ∀ l ∈ [3, 4, 5, 6, 7, 8, 11], l < 16 := by decide
    obtain ⟨hup, hmod⟩ := upper_and_low_of_and rfl (hlow low hl) hw
    exact .inl (.inl (.inl (.inl (.inl (.inr ⟨hup, hmod ▸ hl⟩)))))
  · have hlow : ∀ l ∈ [4, 11], l < 16 := by decide
    obtain ⟨hup, hmod⟩ := upper_and_low_of_and rfl (hlow low hl) hw
    exact .inl (.inl (.inl (.inl (.inr ⟨hup, hmod ▸ hl⟩))))
  · simp only [List.mem_cons, List.not_mem_nil, or_false] at hc
    rcases hc with rfl | rfl
    · exact .inl (.inl (.inl (.inr ⟨hw, hne _ rfl⟩)))
    · exact .inl (.inl (.inr ⟨hw, hne _ rfl⟩))
  · have hwn : w = BitVec.ofNat 16 n := BitVec.and_allOnes.symm.trans hw
    have hword : ∀ m ∈ [0x9528, 0x9538, 0x9548, 0x9558, 0x9568, 0x9578, 0x95B8, 0x95D8, 0x95E8, 0x95F8],
        (BitVec.ofNat 16 m).toNat = m := by decide
    exact .inl (.inr (by rw [hwn, hword n hn]; exact hn))
  · obtain rfl := List.mem_singleton.mp hc
    exact .inr hw

/-- Settles O4: an unhandled word is in a class of R108 by the search, and a class's word meets no row. -/
theorem unhandledWords : Obligations.UnhandledWords := by
  refine fun w w2 => ⟨fun h => ?_, decodeWords_of_reserved⟩
  obtain ⟨c, hc, hw, hexempt⟩ := exists_reservedClass_of_unhandled h
  exact reservedWord_of_class hc hw hexempt

end Sys2Proof.Machine
end

/-! PROOF. The flags an instruction changes (O16) and the cycles it charges (O14), both read off the effect it has: the columns of
10_state.md R57, and `CYC` of one of its cases, from which the cycles of a step and of a run (spec/70_reset_and_hazards.md R345,
R347, R360). -/

section
namespace Sys2Proof.Machine

/-! ### Flags (10_state.md R57) -/

section
variable {i : Instr} {s u : State}

theorem not_mem_flagsWritten {k : BitNo} :
    k ∉ flagsWritten i s ↔ k ∉ flagColumns i ∧ storeTarget s i ≠ some aSREG := by
  have hall : ∀ k : BitNo, k ∈ ([0, 1, 2, 3, 4, 5, 6, 7] : List BitNo) := by decide
  unfold flagsWritten
  split <;> simp_all

/-- Only the flags of the instruction's own columns are written, or all by a store to SREG. -/
theorem Effect.keepsFlags (he : Effect i s u) : flagsKept (flagsWritten i s) s u := by
  intro k hk
  obtain ⟨hcol, hsreg⟩ := not_mem_flagsWritten.mp hk
  have store : ∀ {a v} {r w : State}, storeTarget s i = some a → memWrite a v r = .ok w → w.flags = r.flags :=
    fun hs hw => (memWrite_core hw).2.1 (by rintro rfl; exact hsreg hs)
  cases he with
  | regs g f _ _ _ hf => exact hf k hcol
  | load g _ _ hr => exact (congrArg (Flags.get · k) (quiet_flags (memRead_quiet hr)) :)
  | store g _ hs hw => exact (congrArg (Flags.get · k) (store hs hw) :)
  | modify _ hs hr hw => rw [store hs hw, quiet_flags (memRead_quiet hr)]
  | sleep b => rfl
  | call _ hp => obtain ⟨-, -, rfl⟩ := pushAddr_eq_ok.mp hp; rfl
  | ret _ hp => obtain ⟨-, -, -, rfl⟩ := popAddr_eq_ok.mp hp; rfl
  | reti hi hp =>
    obtain ⟨-, -, rfl⟩ := returnFromInterrupt_eq_ok.mp hp
    subst hi
    exact Flags.get_put_other s.flags 7 true k hcol
  | push _ hp => obtain ⟨-, rfl⟩ := pushByte_eq_ok.mp hp; rfl
  | pop _ hp => obtain ⟨-, -, rfl⟩ := popByte_eq_ok.mp hp; rfl

end

/-- Settles O16: the flags are the effect's; the move of pc writes none. -/
theorem flagFrame : Obligations.FlagFrame := by
  intro i s t h
  obtain ⟨u, p, c, he, -, rfl⟩ := performs_of_exec h
  exact he.keepsFlags

/-! ### The counts of `CYC` (R7, R360) -/

/-- An instruction's cases have a default from 1 to 5: none depends on its operands. -/
theorem cycDefault_bounds {i : Instr} {c : CycCase} (hc : c ∈ cycCases i) : 1 ≤ cycDefault c ∧ cycDefault c ≤ 5 := by
  have hall : (cycCases i).all (fun c => 1 ≤ cycDefault c ∧ cycDefault c ≤ 5) = true := by cases i <;> rfl
  exact of_decide_eq_true (List.all_eq_true.mp hall c hc)

theorem Params.cyc_bounds {s : State} {i : Instr} {c : CycCase} (h : s.cycOk = true) (hc : c ∈ cycCases i) :
    1 ≤ s.params.cyc c ∧ s.params.cyc c ≤ 5 := by
  unfold Params.cyc
  cases hl : s.params.cycOverrides.lookup c with
  | none => exact cycDefault_bounds hc
  | some n =>
    obtain ⟨before, after, hlist, -⟩ := List.lookup_eq_some_iff.mp hl
    have hmem : (c, n) ∈ s.params.cycOverrides := by simp [hlist]
    simpa using List.all_eq_true.mp h _ hmem

/-- An override changes its own case alone. -/
theorem Params.cyc_cons {p : Params} (c d : CycCase) (n : Nat) :
    ({ p with cycOverrides := (c, n) :: p.cycOverrides } : Params).cyc d = if d = c then n else p.cyc d := by
  rw [Params.cyc, List.lookup_cons]
  by_cases h : d = c
  · rw [if_pos h, beq_iff_eq.mpr h]
    rfl
  · rw [if_neg h, beq_eq_false_iff_ne.mpr h]
    rfl

/-! ### The cycles of an instruction, of a step (R345) and of a run (R347) -/

section
variable {s t : State}

theorem exec_cycles {i : Instr} (h : exec i s = .next t) : ∃ c ∈ cycCases i, t.cycles = s.cycles + s.params.cyc c := by
  obtain ⟨u, p, c, he, hc, rfl⟩ := performs_of_exec h
  obtain ⟨-, -, -, -, -, hcycles⟩ := he.fixed
  exact ⟨c, hc, congrArg (· + s.params.cyc c) hcycles⟩

theorem exec_cycles_bounds {i : Instr} (hok : s.cycOk = true) (h : exec i s = .next t) :
    s.cycles + 1 ≤ t.cycles ∧ t.cycles ≤ s.cycles + 5 := by
  obtain ⟨c, hc, e⟩ := exec_cycles h
  have := Params.cyc_bounds hok hc
  omega

theorem stepBody_cycles_bounds (hok : s.cycOk = true) (h : stepBody s = .next t) :
    s.cycles + 1 ≤ t.cycles ∧ t.cycles ≤ s.cycles + 5 := by
  rcases stepBody_eq_next.mp h with ⟨-, rfl⟩ | ⟨-, i, -, he⟩
  · exact ⟨Nat.le_refl _, Nat.add_le_add_left (by decide) _⟩
  · exact exec_cycles_bounds (s := observe s) hok he

/-- The tail charges an interrupt entry at most (60_exceptions.md R286). -/
theorem afterBody_cycles_bounds (h : afterBody s = .ok t) :
    s.cycles ≤ t.cycles ∧ t.cycles ≤ s.cycles + s.params.irqEntryCycles + s.params.wakeupCycles := by
  obtain ⟨u, hu, hd⟩ := afterBody_eq_ok.mp h
  have hq := catchUpAll_quiet hu
  have hcycles : (recognise u).cycles = s.cycles := by
    rw [recognise_eq]; exact (quiet_cycles hq :)
  have hparams : (recognise u).params = s.params := by
    rw [recognise_eq]; exact (quiet_params hq :)
  rcases dispatch_eq_ok.mp hd with ⟨-, rfl⟩ | ⟨-, n, -, hn⟩
  · omega
  · obtain ⟨hlo, hhi⟩ := takeInterrupt_window hn
    rw [takeInterrupt_eq_entered hlo hhi] at hn
    have hentry := State.entered_cycles (n := n) (s := recognise u)
    rw [Except.ok.inj hn, hcycles, hparams] at hentry
    split at hentry <;> omega

theorem step_cycles_bounds (hok : s.cycOk = true) (h : step s = .next t) : s.cycles + 1 ≤ t.cycles
    ∧ t.cycles ≤ s.cycles + 5 + s.params.irqEntryCycles + s.params.wakeupCycles := by
  obtain ⟨-, u, hu, ht⟩ := step_eq_next.mp h
  have hbody := stepBody_cycles_bounds hok hu
  have htail := afterBody_cycles_bounds ht
  rw [(stepBody_programKept hu).2.1] at htail
  omega

/-- A run of at most `k` steps that is not asked to return early, where `k` cycles reach the target: its last step starts below
the target. -/
theorem runTo_cycles_bounds {early : Nat → State → Bool} {target k : Nat} (hok : s.cycOk = true)
    (hearly : s.params.debugHooks = false ∨ ∀ n u, early n u = false) (hk : target ≤ s.cycles + k)
    (hs : s.cycles ≤ target + 4 + s.params.irqEntryCycles + s.params.wakeupCycles)
    (h : runTo early target k s = .next t) :
    target ≤ t.cycles ∧ t.cycles ≤ target + 4 + s.params.irqEntryCycles + s.params.wakeupCycles := by
  induction k generalizing s with
  | zero =>
    cases h
    exact ⟨hk, hs⟩
  | succ k ih =>
    rw [runTo] at h
    split at h
    · next hlt =>
      have hstay : (s.params.debugHooks && early (k + 1) s) = false := by
        rcases hearly with e | e <;> simp [e]
      rw [hstay, if_neg Bool.false_ne_true] at h
      split at h
      · next u hu =>
        obtain ⟨-, hparams, -⟩ := flashNeverChanges s u hu
        have hstep := step_cycles_bounds hok hu
        have hrun := ih (s := u) (by rw [State.cycOk, hparams]; exact hok) (by rw [hparams]; exact hearly)
          (by omega) (by rw [hparams]; omega) h
        rwa [hparams] at hrun
      · cases h
      · cases h
    · next hge =>
      cases h
      exact ⟨Nat.not_lt.mp hge, hs⟩

/-- An early return before the first step: the breakpoint check has been asked, and logged. -/
theorem execute_early {flags : RunFlags} {early : Nat → State → Bool} {budget : Nat} (hpos : 0 < budget)
    (hdebug : flags.debug = true) (hask : early budget (s.setHooks flags) = true) :
    execute flags early budget s = .next { s.setHooks flags with hostLog := .breakpointCheck :: s.hostLog } := by
  have hd : (s.setHooks flags).params.debugHooks = true := hdebug
  obtain ⟨k, rfl⟩ := Nat.exists_eq_succ_of_ne_zero hpos.ne'
  have hlt : (s.setHooks flags).cycles < s.cycles + (k + 1) := Nat.lt_add_of_pos_right hpos
  rw [execute, runTo, if_pos hlt, hd, hask, if_pos (Bool.and_self true), breakpointHook, State.notify, hd]
  rfl

end

/-- Settles O14: an instruction by its effect, a step by its body and its tail, a run by induction on its steps. -/
theorem cyclesAdvance : Obligations.CyclesAdvance := by
  refine ⟨fun i s t => exec_cycles, fun i s t => exec_cycles_bounds, fun s t => step_cycles_bounds, ?_,
    fun flags early budget s => execute_early, fun p hp => ?_, ?_⟩
  · intro flags early budget s t hok hpos hearly h
    exact runTo_cycles_bounds (s := s.setHooks flags) hok hearly (Nat.le_refl _) (by change s.cycles ≤ _; omega) h
  · have hcyc := Params.cyc_default hp
    simp only [hcyc]
    decide
  · rintro p q c d n rfl
    exact Params.cyc_cons c d n

end Sys2Proof.Machine
end

/-! PROOF. The forms refused (O45) and the addresses that fault (O44): the check of R238 comes before the access, the check
of the address before everything else the access does (spec/45_data_transfer.md R238, R239, spec/20_memory.md R65). -/

section
namespace Sys2Proof.Machine

section
variable {s : State} {p : Ptr} {m : PtrMode} {d r : Reg} {ea : Word}

/-! ### The refusals (R238) -/

theorem loadPtr_refuses (h : overlaps p m d = true) : outcome (loadPtr p m d s) = .refused .pointerOverlap := by
  rw [loadPtr, checkOverlap_stop h, refuse_bind, outcome_refuse]

theorem storePtr_refuses (h : overlaps p m r = true) : outcome (storePtr p m r s) = .refused .pointerOverlap := by
  rw [storePtr, checkOverlap_stop h, refuse_bind, outcome_refuse]

theorem loadFlash_refuses (h : overlaps .z m d = true) : outcome (loadFlash m d s) = .refused .pointerOverlap := by
  rw [loadFlash, checkOverlap_stop h, refuse_bind, outcome_refuse]

/-! ### The faults (20_memory.md R65) -/

theorem loadFrom_faults {n : Nat} {c : CycCase} (h : Config.dataSize ≤ ea.toNat) :
    outcome (loadFrom ea d n c s) = .fault (.outOfRangeData ea.toNat) :=
  outcome_bind_of_raise _ (memRead_stop s (Nat.not_lt.mpr h))

theorem storeTo_faults {v : Byte} {n : Nat} {c : CycCase} (h : Config.dataSize ≤ ea.toNat) :
    outcome (storeTo ea v n c s) = .fault (.outOfRangeData ea.toNat) :=
  outcome_bind_of_raise _ (memWrite_stop v s (Nat.not_lt.mpr h))

theorem loadPtr_faults (ho : overlaps p m d = false) (h : Config.dataSize ≤ (m.address (s.ptr p)).toNat) :
    outcome (loadPtr p m d s) = .fault (.outOfRangeData (m.address (s.ptr p)).toNat) := by
  rw [loadPtr, checkOverlap_eq_ok (u := ()).mpr ho, ok_bind]
  exact outcome_bind_of_raise _ (memRead_stop s (Nat.not_lt.mpr h))

theorem storePtr_faults (ho : overlaps p m r = false) (h : Config.dataSize ≤ (m.address (s.ptr p)).toNat) :
    outcome (storePtr p m r s) = .fault (.outOfRangeData (m.address (s.ptr p)).toNat) := by
  rw [storePtr, checkOverlap_eq_ok (u := ()).mpr ho, ok_bind]
  exact outcome_bind_of_raise _ (memWrite_stop _ s (Nat.not_lt.mpr h))

end

/-! ### The addresses of the I/O forms (20_memory.md R94) -/

theorem ioAddress6_lt_dataSize (a : BitVec 6) : ioAddress6 a < Config.dataSize :=
  Nat.lt_trans (Nat.add_lt_add_right a.isLt ioStart) (by decide)

theorem ioAddress5_lt_dataSize (a : BitVec 5) : ioAddress5 a < Config.dataSize :=
  Nat.lt_trans (Nat.add_lt_add_right a.isLt ioStart) (by decide)

/-! ### The forms -/

/-- Settles O45: form by form. -/
theorem overlapsRefused : Obligations.OverlapsRefused := by
  intro i s h
  cases i with
  | ldXInc d | ldXDec d | ldYInc d | ldYDec d | ldZInc d | ldZDec d => exact loadPtr_refuses h
  | stXInc r | stXDec r | stYInc r | stYDec r | stZInc r | stZDec r => exact storePtr_refuses h
  | lpmZInc d => exact loadFlash_refuses h
  | _ => exact absurd h Bool.false_ne_true

theorem load_faults {i : Instr} {s : State} {a : Nat} (h : loadTarget s i = some a) (ha : Config.dataSize ≤ a)
    (ho : overlapRefused i = false) : exec i s = .fault (.outOfRangeData a) := by
  cases i with
  | lds | lddY | lddZ => cases h; exact loadFrom_faults ha
  | ldX => cases h; exact loadPtr_faults (m := .plain) rfl ha
  | ldXInc | ldYInc | ldZInc => cases h; exact loadPtr_faults (m := .postInc) ho ha
  | ldXDec | ldYDec | ldZDec => cases h; exact loadPtr_faults (m := .preDec) ho ha
  | ioIn => cases h; exact absurd ha (Nat.not_le.mpr (ioAddress6_lt_dataSize _))
  | sbi | cbi | sbic | sbis => cases h; exact absurd ha (Nat.not_le.mpr (ioAddress5_lt_dataSize _))
  | sleep => cases h; exact absurd ha (by decide)
  | _ => cases h

theorem store_faults {i : Instr} {s : State} {a : Nat} (h : storeTarget s i = some a) (ha : Config.dataSize ≤ a)
    (ho : overlapRefused i = false) : exec i s = .fault (.outOfRangeData a) := by
  cases i with
  | sts | stdY | stdZ => cases h; exact storeTo_faults ha
  | stX => cases h; exact storePtr_faults (m := .plain) rfl ha
  | stXInc | stYInc | stZInc => cases h; exact storePtr_faults (m := .postInc) ho ha
  | stXDec | stYDec | stZDec => cases h; exact storePtr_faults (m := .preDec) ho ha
  | ioOut => cases h; exact absurd ha (Nat.not_le.mpr (ioAddress6_lt_dataSize _))
  | sbi | cbi => cases h; exact absurd ha (Nat.not_le.mpr (ioAddress5_lt_dataSize _))
  | _ => cases h

/-- Settles O44: a load or a store, each form by its address computation. -/
theorem dataFaults : Obligations.DataFaults := by
  rintro i s a (h | h) ha ho
  · exact load_faults h ha ho
  · exact store_faults h ha ho

end Sys2Proof.Machine
end

/-! PROOF. Sample words of the opcode map (O5), what a reset and the loading of a program leave (O9, O10), and the invariant of
the reset state (O11) (spec/30_encoding.md R106; spec/10_state.md R48, spec/70_reset_and_hazards.md R340, R341). -/

section
namespace Sys2Proof.Machine

/-! ### Memories cut to a range of addresses, and written from an address on -/

theorem Memory.read_filter (m : Memory) (p : Nat → Bool) (a : Nat) :
    Memory.read (m.filter fun c => p c.1) a = if p a then m.read a else Memory.unlisted := by
  induction m with
  | nil => simp [Memory.read]
  | cons c rest ih =>
    obtain ⟨b, x⟩ := c
    by_cases hb : b = a
    · subst hb
      cases hp : p b <;> simp_all [Memory.read]
    · cases hp : p b <;> simpa [List.filter_cons, Memory.read, hb, hp] using ih

theorem Memory.read_writeBytes_below (l : List Byte) {m : Memory} {a b : Nat} (h : b < a) :
    (m.writeBytes a l).read b = m.read b := by
  induction l generalizing m a with
  | nil => rfl
  | cons v rest ih => rw [Memory.writeBytes, ih (Nat.lt_succ_of_lt h), Memory.read_write_other m v h.ne]

theorem Memory.read_writeBytes (l : List Byte) (m : Memory) (a j : Nat) :
    (m.writeBytes a l).read (a + j) = l.getD j (m.read (a + j)) := by
  induction l generalizing m a j with
  | nil => rfl
  | cons v rest ih =>
    rw [Memory.writeBytes]
    cases j with
    | zero =>
      change ((m.write a v).writeBytes (a + 1) rest).read a = v
      rw [Memory.read_writeBytes_below rest (Nat.lt_add_one a), Memory.read_write_same]
    | succ k =>
      rw [show a + (k + 1) = a + 1 + k by omega, ih, Memory.read_write_other m v (by omega), List.getD_cons_succ]

/-- The image from address 0 on, cut to the flash, the rest 0 (R341). -/
theorem flashAt_loadProgram (image : List Byte) (s : State) {b : Nat} (h : b < Config.flashBytes) :
    (loadProgram image s).flashAt b = image.getD b 0 := by
  have hread := Memory.read_writeBytes (image.take Config.flashBytes) [] 0 b
  rw [Nat.zero_add] at hread
  rw [State.flashAt, loadProgram, hread, List.getD_eq_getElem?_getD, List.getElem?_take_of_lt h, List.getD_eq_getElem?_getD]
  rfl

/-! ### The reset by the host -/

/-- I/O reads 0 and SRAM what was supplied: the memory is cut at 0x100. -/
theorem byteAt_hostReset (regs : Vector Byte 32) (sram eeprom : Memory) (s : State) (a : Nat) :
    (hostReset regs sram eeprom s).byteAt a = if sramStart ≤ a then sram.read a else 0 := by
  rw [State.byteAt, hostReset, Memory.read_filter sram (fun a => decide (sramStart ≤ a)) a]
  simp only [decide_eq_true_eq, Memory.unlisted]

theorem get_flagsZero : ∀ f : BitNo, flagsZero.get f = false := by decide

/-- Settles O9: the cut of the memory is the only computation; every other item is the record's. -/
theorem resetLeaves : Obligations.ResetLeaves := by
  rintro regs sram eeprom s t rfl
  exact ⟨rfl, get_flagsZero, rfl, rfl, rfl, rfl, rfl, rfl, rfl,
    fun a ha => (byteAt_hostReset regs sram eeprom s a).trans (if_neg (Nat.not_le.mpr ha)),
    fun a ha => (byteAt_hostReset regs sram eeprom s a).trans (if_pos ha),
    fun _ => rfl, fun _ => rfl, fun _ => rfl, rfl⟩

/-! ### The model's own reset state -/

theorem reg_reset (r : Reg) : State.reset.reg r = 0 := Vector.getElem_replicate r.isLt

/-- Settles O10: the reset state lists no byte, and loading is a write from address 0 on. -/
theorem modelResetChoices : Obligations.ModelResetChoices :=
  ⟨reg_reset, fun _ => rfl, fun _ => rfl, rfl, fun _ => rfl, rfl,
    fun image => ⟨rfl, fun _ hb => flashAt_loadProgram image State.reset hb⟩⟩

/-- Settles O11. -/
theorem resetHasInv : Obligations.ResetHasInv := by
  unfold Obligations.ResetHasInv
  decide

/-! ### Sample words -/

/-- Settles O5: the decoder on eight words. -/
theorem sampleWords : Obligations.SampleWords := by
  unfold Obligations.SampleWords
  decide

end Sys2Proof.Machine
end

/-! PROOF. INC and DEC (O22), the conditional branches (O31) and the system instructions (O49)
(spec/40_arithmetic.md R143, R144; spec/43_branch_skip.md R183, R184; spec/46_system.md R260 to R263). -/

section
namespace Sys2Proof.Machine

/-! ### INC and DEC in numbers -/

theorem incFlags8_toNat (a : Byte) (f : Flags) : (incFlags8 a f).result.toNat = (a.toNat + 1) % 256 :=
  BitVec.toNat_ofNat _ _

theorem decFlags8_toNat (a : Byte) (f : Flags) : (decFlags8 a f).result.toNat = (a.toNat + 255) % 256 := by
  rw [decFlags8, BitVec.toNat_ofInt]
  omega

/-- The flags of R143 and R144 for an operand `a` with result `r`: V at the operand `signed`, Z at the operand `one`
whose result is 0. -/
def countVerdict (signed one : Nat) (a r : Byte) (f : Flags) : Prop :=
  f.v = decide (a.toNat = signed) ∧ f.n = decide (128 ≤ r.toNat) ∧ f.z = decide (a.toNat = one) ∧ f.s = (f.n ^^ f.v)

/-- A result is a given byte exactly at one operand. -/
theorem decide_result_eq {r x : Byte} {p : Prop} [Decidable p] (h : r.toNat = x.toNat ↔ p) : decide (r = x) = decide p :=
  decide_eq_decide.mpr (BitVec.toNat_inj.symm.trans h)

theorem incFlags8_verdict (a : Byte) (f : Flags) : countVerdict 127 255 a (incFlags8 a f).result (incFlags8 a f).flags := by
  have hr := incFlags8_toNat a f
  have ha := a.isLt
  refine ⟨decide_result_eq (x := 0x80) ?_, msb_byte _, decide_result_eq (x := 0) ?_, rfl⟩
  · change (incFlags8 a f).result.toNat = 128 ↔ _
    omega
  · change (incFlags8 a f).result.toNat = 0 ↔ _
    omega

theorem decFlags8_verdict (a : Byte) (f : Flags) : countVerdict 128 1 a (decFlags8 a f).result (decFlags8 a f).flags := by
  have hr := decFlags8_toNat a f
  have ha := a.isLt
  refine ⟨decide_result_eq (x := 0x7F) ?_, msb_byte _, decide_result_eq (x := 0) ?_, rfl⟩
  · change (decFlags8 a f).result.toNat = 127 ↔ _
    omega
  · change (decFlags8 a f).result.toNat = 0 ↔ _
    omega

/-- Settles O22: the verdicts of INC and DEC in numbers. -/
theorem incDec : Obligations.IncDec := by
  constructor <;> intro d s
  · obtain ⟨t, ht, hr, ⟨hv, hn, hz, hs⟩, hkept⟩ := answers_writeAlu_result (c := .inc) (d := d)
      (P := fun r => r.toNat = ((s.reg d).toNat + 1) % 256) (V := countVerdict 127 255 (s.reg d))
      (incFlags8_toNat _ s.flags) (incFlags8_verdict _ _) (Flags.get_of_not_logic rfl rfl rfl rfl) rfl
    exact ⟨t, ht, hr, hv, hn, hz, hs, hkept⟩
  · obtain ⟨t, ht, hr, ⟨hv, hn, hz, hs⟩, hkept⟩ := answers_writeAlu_result (c := .dec) (d := d)
      (P := fun r => r.toNat = ((s.reg d).toNat + 255) % 256) (V := countVerdict 128 1 (s.reg d))
      (decFlags8_toNat _ s.flags) (decFlags8_verdict _ _) (Flags.get_of_not_logic rfl rfl rfl rfl) rfl
    exact ⟨t, ht, hr, hv, hn, hz, hs, hkept⟩

/-! ### Instructions that only move on -/

/-- An instruction that only moves on is a jump to the next one. -/
theorem answers_advance {c : CycCase} {n : Nat} (s : State) (words : Nat) (hn : cycDefault c = n) :
    ∃ t, answer (s.advance words (s.cyc c)) = .next t ∧ t.flags = s.flags ∧ onlyRegs [] s t ∧ movedOn words c n s t :=
  ⟨_, rfl, rfl, onlyRegs_jump s _ _, rfl, charged_of_default hn rfl⟩

/-! ### Branches (R183, R184) -/

section
variable {c : Bool → CycCase} {cond : Bool} {k : BitVec 7} {s : State}

theorem answers_branchIf (htaken : cycDefault (c true) = 2) (hnot : cycDefault (c false) = 1) :
    ∃ t, answer (branchIf c cond k s) = .next t ∧ t.flags = s.flags ∧ onlyRegs [] s t
      ∧ if cond = true then (t.pc.toNat : Int) = (s.pc.toNat + 1 + k.toInt) % 65536 ∧ charged (c true) 2 s t
        else movedOn 1 (c false) 1 s t := by
  cases cond with
  | true =>
    exact ⟨_, rfl, rfl, onlyRegs_jump s _ _, toNat_relTarget k s, charged_of_default htaken rfl⟩
  | false => exact answers_advance s 1 hnot

end

/-- Settles O31: BRBC branches on the flag's negation. -/
theorem branches : Obligations.Branches := by
  refine ⟨fun f k s => answers_branchIf rfl rfl, fun f k s => ?_⟩
  have h := answers_branchIf (c := .brbc) (cond := !s.flags.get f) (k := k) (s := s) rfl rfl
  simp only [Bool.not_eq_true'] at h
  exact h

/-! ### SLEEP (R261) -/

theorem plainHome_smcr : plainHome aSMCR := by
  refine ⟨?_, ?_, ?_, ?_⟩ <;> decide

theorem memRead_smcr (s : State) : memRead aSMCR s = .ok (s.byteAt aSMCR, s) := by
  rw [memRead_plain s (by decide) (by rintro (e | e | e | e) <;> exact absurd e (by decide)), s.rawRead_plain plainHome_smcr]

/-- SLEEP is its decision on the SMCR byte. -/
theorem exec_sleep (s : State) :
    exec .sleep s = outcome (enterSleep (s.byteAt aSMCR) s >>= fun u => .ok (u.advance 1 (s.cyc .sleep))) :=
  outcome_bind_of_ok _ (memRead_smcr s)

/-- The idle mode is SE with the three mode bits clear: SMCR's low four bits are 0001. -/
theorem idleMode_iff : ∀ m : Byte, (m.getLsbD 0 = true ∧ m.extractLsb' 1 3 = 0) ↔ m.toNat % 16 = 1 := by decide

section
variable {s : State}

theorem exec_sleep_of_disabled (h : (s.byteAt aSMCR).getLsbD 0 = false) :
    exec .sleep s = answer (s.advance 1 (s.cyc .sleep)) := by
  rw [exec_sleep, enterSleep, if_neg (Bool.eq_false_iff.mp h)]
  rfl

theorem exec_sleep_of_idle (h : (s.byteAt aSMCR).toNat % 16 = 1) :
    exec .sleep s = answer (State.advance { s with sleeping := true } 1 (s.cyc .sleep)) := by
  obtain ⟨hse, hmode⟩ := (idleMode_iff _).mpr h
  rw [exec_sleep, enterSleep, if_pos hse, if_pos hmode]
  rfl

theorem exec_sleep_of_other (hse : (s.byteAt aSMCR).getLsbD 0 = true) (h : (s.byteAt aSMCR).toNat % 16 ≠ 1) :
    exec .sleep s = .refused .sleepModeNotIdle := by
  have hmode : ¬ (s.byteAt aSMCR).extractLsb' 1 3 = 0 := fun hm => h ((idleMode_iff _).mp ⟨hse, hm⟩)
  rw [exec_sleep, enterSleep, if_pos hse, if_neg hmode, refuse_bind, outcome_refuse]

end

/-- Settles O49: NOP, WDR and BREAK only move on; SLEEP goes by the SMCR byte. -/
theorem systemInstructions : Obligations.SystemInstructions := by
  refine ⟨?_, fun s hse => ?_, fun s hidle => ?_, fun s hse hmode => exec_sleep_of_other hse hmode⟩
  · rintro i c s (⟨rfl, rfl⟩ | ⟨rfl, rfl⟩ | ⟨rfl, rfl⟩) <;> exact answers_advance s 1 rfl
  · rw [exec_sleep_of_disabled hse]
    exact answers_advance s 1 rfl
  · exact ⟨_, exec_sleep_of_idle hidle, rfl, rfl, fun _ _ => rfl, rfl, memKept_refl s,
      ⟨rfl, charged_of_default rfl rfl⟩, rfl, rfl, rfl, rfl⟩

end Sys2Proof.Machine
end

/-! PROOF. Recognition (O59): each of the four sources adds its own vector's bit (spec/60_exceptions.md R284, R281). -/

section
namespace Sys2Proof.Machine

theorem getLsbD_vectorBit (n m : Fin 43) : (1#43 <<< n.val).getLsbD m.val = decide (m = n) := by
  rw [BitVec.getLsbD_shiftLeft, BitVec.getLsbD_one, Bool.eq_iff_iff]
  simp only [Bool.and_eq_true, decide_eq_true_eq, Bool.not_eq_true', decide_eq_false_iff_not, Fin.ext_iff]
  omega

theorem getLsbD_sourceBit (s : State) (src : IrqSource) (n : Fin 43) :
    (sourceBit s src).getLsbD n.val
      = (decide (n = src.vector) && s.ioBit src.flagReg src.flagBit && s.ioBit src.maskReg src.maskBit) := by
  rw [sourceBit, Bool.and_assoc]
  split
  · next h => rw [h, Bool.and_true, getLsbD_vectorBit]
  · next h => rw [Bool.eq_false_iff.mpr h, Bool.and_false]; exact BitVec.getLsbD_zero

/-- Settles O59: the mask after recognition is the union of the sources' bits. -/
theorem recognition : Obligations.Recognition := by
  intro s
  rw [recognise_eq]
  refine ⟨rfl, fun n => ?_⟩
  simp only [BitVec.getLsbD_or, getLsbD_sourceBit]
  rfl

end Sys2Proof.Machine
end

/-! PROOF. The round trips over the stack (O38): the bytes a pop reads are those the push before it stored
(spec/44_call_return_stack.md R196, R203, spec/60_exceptions.md R289). -/

section
namespace Sys2Proof.Machine

section
variable {w : Word}

theorem toNat_sub_two (h : 2 ≤ w.toNat) : (w - 2).toNat = w.toNat - 2 := by
  have := w.isLt
  bv_omega

/-- The two addresses a pop reads after a push from `w` on. -/
theorem toNat_sub_two_add (h : 2 ≤ w.toNat) : (w - 2 + 1).toNat = w.toNat - 1 ∧ (w - 2 + 2).toNat = w.toNat := by
  have hsub := toNat_sub_two h
  have := w.isLt
  rw [toNat_add_one, toNat_add_two]
  omega

end

/-! ### PUSH and POP, CALL and RET -/

theorem pop_undoes_push (r d : Reg) (s : State) (hlo : 0x100 ≤ s.sp.toNat) (hhi : s.sp.toNat < 0xB00) :
    ∃ t u, exec (.push r) s = .next t ∧ exec (.pop d) t = .next u ∧ u.reg d = s.reg r ∧ u.sp = s.sp ∧ regsKept [d] s u
      ∧ u.cycles = s.cycles + s.params.cyc .push + s.params.cyc .pop := by
  obtain ⟨t, ht, hbyte, hsp, -, hregs, -, hsys, -, hcyc, -⟩ := pushAndPop.1 r s hlo hhi
  obtain ⟨⟨-, -, -, -, -, -, hparams, -⟩, -⟩ := hsys
  have hsub : t.sp.toNat = s.sp.toNat - 1 := hsp ▸ toNat_sub_one (by omega)
  obtain ⟨u, hu, hread, hsp', hregs', -, -, -, -, hcyc', -⟩ := pushAndPop.2 d t (by omega) (by omega)
  refine ⟨t, u, ht, hu, ?_, ?_, fun q hq => (hregs' q hq).trans (hregs q List.not_mem_nil), ?_⟩
  · rw [hread, hsub, Nat.sub_add_cancel (by omega), hbyte]
  · rw [hsp', hsp, BitVec.sub_add_cancel]
  · rw [hcyc', hcyc, hparams]

theorem ret_undoes_call (k : BitVec 22) (s : State) (hk : k.toNat < 65536) (hlo : 0x101 ≤ s.sp.toNat)
    (hhi : s.sp.toNat < 0xB00) :
    ∃ t u, exec (.call k) s = .next t ∧ exec .ret t = .next u ∧ u.pc = s.pc + 2 ∧ u.sp = s.sp ∧ u.flags = s.flags
      ∧ regsKept [] s u := by
  obtain ⟨t, ht, -, -, hword, hsp, -, hregs, hflags, -⟩ := calls.2.2 k s hk hlo hhi
  have hsub : t.sp.toNat = s.sp.toNat - 2 := hsp ▸ toNat_sub_two (by omega)
  obtain ⟨u, hu, hpc, hsp', -, hflags', hregs', -⟩ := returns.1 t (by omega) (by omega)
  refine ⟨t, u, ht, hu, ?_, ?_, hflags'.trans hflags, fun q hq => (hregs' q hq).trans (hregs q hq)⟩
  · rw [hpc, ← hword, hsub, show s.sp.toNat - 2 + 1 = s.sp.toNat - 1 by omega, Nat.sub_add_cancel (by omega)]
  · rw [hsp', hsp, BitVec.sub_add_cancel]

/-! ### An interrupt entry and RETI -/

theorem reti_undoes_entry {s t : State} {n : Fin 43} (hi : s.flags.i = true) (h : takeInterrupt n s = .ok t) :
    ∃ u, exec .reti t = .next u ∧ u.pc = s.pc ∧ u.sp = s.sp ∧ u.flags = s.flags ∧ u.gpr = s.gpr
      ∧ u.insideInterrupt = false := by
  obtain ⟨hlo, hhi⟩ := takeInterrupt_window h
  rw [takeInterrupt_eq_entered hlo hhi] at h
  cases h
  have hsp : (s.entered n).sp = s.sp - 2 := rfl
  obtain ⟨e1, e2⟩ := toNat_sub_two_add (w := s.sp) (by omega)
  obtain ⟨h1, h2⟩ : inStack ((s.entered n).sp + 1) = true ∧ inStack ((s.entered n).sp + 2) = true := by
    rw [hsp, inStack_iff, inStack_iff]
    omega
  refine ⟨_, exec_reti_of_return (returnFromInterrupt_eq_ok.mpr ⟨h1, h2, rfl⟩), ?_, ?_, ?_, rfl, rfl⟩
  · change word16 ((s.entered n).byteAt (s.sp - 2 + 1).toNat) ((s.entered n).byteAt (s.sp - 2 + 2).toNat) = s.pc
    rw [e1, e2, State.entered_word16 hlo]
  · exact BitVec.sub_add_cancel s.sp 2
  · change { s.flags with i := true } = s.flags
    rw [← hi]

/-- Settles O38: what is popped is what was pushed; a dispatch with I set and a vector pending is an entry. -/
theorem stackRoundTrips : Obligations.StackRoundTrips := by
  refine ⟨pop_undoes_push, ret_undoes_call, fun s t hi hp h => ?_⟩
  rcases dispatch_eq_ok.mp h with ⟨hi' | hnone, -⟩ | ⟨-, n, -, hn⟩
  · exact absurd (hi'.symm.trans hi) Bool.false_ne_true
  · exact absurd (lowestPending_eq_none_iff_zero.mp hnone) hp
  · exact reti_undoes_entry hi hn

end Sys2Proof.Machine
end

/-! PROOF. PLLCSR and ADCSRA (O53): what a read shows, and a write as the byte it stores and the time it stamps
(spec/20_memory.md R75, R76, R79, R80). -/

section
namespace Sys2Proof.Machine

theorem plainHome_pllcsr : plainHome aPLLCSR := by refine ⟨?_, ?_, ?_, ?_⟩ <;> decide

theorem plainHome_adcsra : plainHome aADCSRA := by refine ⟨?_, ?_, ?_, ?_⟩ <;> decide

theorem bytesKept_memRead {a : Nat} {v : Byte} {s t : State} (h : memRead a s = .ok (v, t)) :
    bytesKept (refreshBytes a) s t := by
  obtain ⟨-, hr, -⟩ := memRead_eq_ok.mp h
  have hq := refresh_quiet hr
  exact ⟨fun _ hb => refresh_byteAt hr hb, fun _ => by rw [quiet_eeprom hq],
    fun _ => by rw [State.flashAt, State.flashAt, quiet_flash hq]⟩

/-! ### The bits PLOCK and ADSC, set or cleared -/

theorem getLsbD_setBit_zero (v : Byte) (k : BitNo) : (setBit v 0).getLsbD k.val = (v.getLsbD k.val || decide (k = 0)) :=
  getLsbD_setBit v 0 k

theorem getLsbD_clearBit_zero (v : Byte) (k : BitNo) :
    (clearBit v 0).getLsbD k.val = (v.getLsbD k.val && !decide (k = 0)) := getLsbD_clearBit v 0 k

theorem getLsbD_clearBit_six (v : Byte) (k : BitNo) :
    (clearBit v 6).getLsbD k.val = (v.getLsbD k.val && !decide (k = 6)) := getLsbD_clearBit v 6 k

/-! ### Reads (R75, R79) -/

theorem memRead_pllcsr (s : State) : memRead aPLLCSR s = .ok ((refreshPllcsr s).byteAt aPLLCSR, refreshPllcsr s) :=
  memRead_eq_ok.mpr ⟨by decide, rfl, ((refreshPllcsr s).rawRead_plain plainHome_pllcsr).symm⟩

theorem memRead_adcsra (s : State) : memRead aADCSRA s = .ok ((refreshAdcsra s).byteAt aADCSRA, refreshAdcsra s) :=
  memRead_eq_ok.mpr ⟨by decide, rfl, ((refreshAdcsra s).rawRead_plain plainHome_adcsra).symm⟩

/-- Of PLLCSR's bits a refresh sets PLOCK once the PLL has been enabled long enough. -/
theorem refreshPllcsr_bit (s : State) (b : BitNo) :
    ((refreshPllcsr s).byteAt aPLLCSR).getLsbD b.val = ((s.byteAt aPLLCSR).getLsbD b.val
      || (decide (b = 0) && (s.byteAt aPLLCSR).getLsbD 1
        && decide (s.params.pllLockCycles ≤ s.cycles - s.last.pll))) := by
  unfold refreshPllcsr State.ioBit
  split
  · next h =>
    simp only [Bool.and_eq_true] at h
    obtain ⟨⟨hen, -⟩, hlock⟩ := h
    rw [State.byteAt_setByte_same, getLsbD_setBit_zero, hen, hlock, Bool.and_true, Bool.and_true]
  · next h =>
    by_cases hb : b = 0
    · subst hb
      cases hset : (s.byteAt aPLLCSR).getLsbD 0 <;> simp_all
    · simp [hb]

/-- Of ADCSRA's bits a refresh clears ADSC once the conversion is over. -/
theorem refreshAdcsra_bit (s : State) (b : BitNo) :
    ((refreshAdcsra s).byteAt aADCSRA).getLsbD b.val = ((s.byteAt aADCSRA).getLsbD b.val
      && !(decide (b = 6) && decide (s.params.adcConvCycles ≤ s.cycles - s.last.adc))) := by
  unfold refreshAdcsra State.ioBit
  split
  · next h =>
    rw [Bool.and_eq_true] at h
    rw [State.byteAt_setByte_same, getLsbD_clearBit_six, h.2, Bool.and_true]
  · next h =>
    by_cases hb : b = 6
    · subst hb
      cases hset : (s.byteAt aADCSRA).getLsbD 6 <;> simp_all
    · simp [hb]

/-! ### Writes (R76, R80) -/

section
variable {v old : Byte} {s m : State}

theorem memWrite_pllcsr (h : memRead aPLLCSR s = .ok (old, m)) :
    memWrite aPLLCSR v s = .ok (reactPllcsr old v (m.setByte aPLLCSR v)) := by
  obtain ⟨ha, hr, rfl⟩ := memRead_eq_ok.mp h
  refine memWrite_eq_ok.mpr ⟨ha, m, hr, ?_⟩
  rw [m.rawWrite_plain v plainHome_pllcsr]
  rfl

theorem memWrite_adcsra (h : memRead aADCSRA s = .ok (old, m)) :
    memWrite aADCSRA v s = .ok (reactAdcsra old v (m.setByte aADCSRA v)) := by
  obtain ⟨ha, hr, rfl⟩ := memRead_eq_ok.mp h
  refine memWrite_eq_ok.mpr ⟨ha, m, hr, ?_⟩
  rw [m.rawWrite_plain v plainHome_adcsra]
  rfl

/-- What a write of PLLCSR stores: PLOCK as it was while the PLL stays enabled, else 0. -/
theorem reactPllcsr_bit (b : BitNo) : ((reactPllcsr old v s).byteAt aPLLCSR).getLsbD b.val
    = if b = 0 then v.getLsbD 1 && old.getLsbD 0 else v.getLsbD b.val := by
  have hbyte : (reactPllcsr old v s).byteAt aPLLCSR
      = if v.getLsbD 1 && old.getLsbD 0 then setBit v 0 else clearBit v 0 := by
    unfold reactPllcsr
    cases v.getLsbD 1 <;> cases old.getLsbD 1 <;> exact State.byteAt_setByte_same s aPLLCSR _
  rw [hbyte]
  split
  · next h => rw [getLsbD_setBit_zero, h]; split <;> simp [*]
  · next h => rw [getLsbD_clearBit_zero, Bool.eq_false_iff.mpr h]; split <;> simp [*]

theorem reactPllcsr_pll :
    (reactPllcsr old v s).last.pll = if v.getLsbD 1 && !old.getLsbD 1 then s.cycles else s.last.pll := by
  unfold reactPllcsr
  cases v.getLsbD 1 <;> cases old.getLsbD 1 <;> rfl

theorem reactAdcsra_byteAt (a : Nat) : (reactAdcsra old v s).byteAt a = s.byteAt a := by
  rcases reactAdcsra_cases old v s with h | h
  · rw [h]
  · rw [h]; rfl

theorem reactAdcsra_adc :
    (reactAdcsra old v s).last.adc = if v.getLsbD 6 && !old.getLsbD 6 then s.cycles else s.last.adc := by
  unfold reactAdcsra
  split <;> rfl

/-- A read that is no catch-up leaves the cycle count and the timestamps. -/
theorem memRead_keeps_times {a : Nat} (h : memRead a s = .ok (v, m)) (ha : a ≠ aTCNT0) :
    m.cycles = s.cycles ∧ m.last = s.last := by
  obtain ⟨-, hr, -⟩ := memRead_eq_ok.mp h
  exact ⟨quiet_cycles (refresh_quiet hr), refresh_last_eq hr ha⟩

end

/-- Settles O53: a read by its refresh, a write by its reaction to the refreshed byte. -/
theorem pllAndAdc : Obligations.PllAndAdc := by
  refine ⟨fun s => ⟨_, _, memRead_pllcsr s, bytesKept_memRead (memRead_pllcsr s), refreshPllcsr_bit s⟩,
    fun v old s m hm => ⟨_, memWrite_pllcsr hm, reactPllcsr_bit, ?_, bytesKept_memWrite (memWrite_pllcsr hm) (by decide)⟩,
    fun s => ⟨_, _, memRead_adcsra s, bytesKept_memRead (memRead_adcsra s), refreshAdcsra_bit s⟩,
    fun v old s m hm => ⟨_, memWrite_adcsra hm, ?_, ?_, bytesKept_memWrite (memWrite_adcsra hm) (by decide)⟩⟩
  · obtain ⟨hcycles, hlast⟩ := memRead_keeps_times hm (by decide)
    rw [reactPllcsr_pll, State.setByte_cycles, State.setByte_last, hcycles, hlast]
  · exact (reactAdcsra_byteAt aADCSRA).trans (m.byteAt_setByte_same aADCSRA v)
  · obtain ⟨hcycles, hlast⟩ := memRead_keeps_times hm (by decide)
    rw [reactAdcsra_adc, State.setByte_cycles, State.setByte_last, hcycles, hlast]

end Sys2Proof.Machine
end

/-! PROOF. Timers 3 and 4 (O57): the bits and counts their ticks leave, timer3's memo and its refusals, and the suggested forms of
timer4's open parameters (spec/60_exceptions.md R317 to R319, R321 to R323). -/

section
namespace Sys2Proof.Machine

/-! ### Matches -/

theorem matchCount_pos_iff (m old target k : Nat) :
    0 < matchCount m old target k ↔ ∃ j, 1 ≤ j ∧ j ≤ k ∧ (old + j) % m = target := by
  rw [Nat.pos_iff_ne_zero, matchCount, ne_eq, Nat.count_iff_forall_not]
  simp only [not_forall, not_not]
  constructor
  · rintro ⟨j, hj, hv⟩
    exact ⟨j + 1, Nat.succ_pos j, hj, hv⟩
  · rintro ⟨j, hpos, hj, hv⟩
    obtain ⟨i, rfl⟩ := Nat.exists_eq_succ_of_ne_zero (Nat.pos_iff_ne_zero.mp hpos)
    exact ⟨i, hj, hv⟩

/-! ### Timer3 (R317 to R319) -/

theorem Timer3Regs.pass_count (target k : Nat) (r : Timer3Regs) :
    (r.pass target k).count.toNat = (r.count.toNat + k) % 65536 := BitVec.toNat_ofNat _ _

theorem Timer3Regs.pass_tifr (target k : Nat) (r : Timer3Regs) (b : BitNo) :
    (r.pass target k).tifr.getLsbD b.val = (r.tifr.getLsbD b.val
      || (decide (b = 1) && decide (0 < matchCount 65536 r.count.toNat target k))) := getLsbD_setBitIf _ r.tifr 1 b

/-- The memo of R319 tells of the last catch-up in which ticks passed. -/
theorem advance3_memo (d now : Nat) (s : State) : (advance3 d now s).t3Triggered
    = if (now - s.last.t3) / d = 0 then s.t3Triggered
      else decide (0 < matchCount 65536 s.tcnt3.toNat s.ocr3a.toNat ((now - s.last.t3) / d)) := by
  rcases advance3_cases d now s with ⟨rfl, e⟩ | ⟨-, hk, e⟩ | ⟨-, hk, hit, w, hhit, -, e⟩
  · rw [e, if_pos (Nat.div_zero _)]
    rfl
  · rw [e, if_pos hk]
  · rw [e, if_neg hk, ← decide_eq_decide.mpr (firstMatch_le_iff (m := 65536) s.ocr3a.isLt _ _)]
    exact hhit

theorem bytesKept_advance3 (d now : Nat) (s : State) : bytesKept [aTCNT3L, aTCNT3H, aTIFR3] s (advance3 d now s) := by
  have hq := quiet_advance3 d now s
  refine ⟨fun a ha => ?_, fun a => by rw [quiet_eeprom hq], fun a => by rw [State.flashAt, quiet_flash hq, State.flashAt]⟩
  simp only [List.mem_cons, List.not_mem_nil, or_false, not_or] at ha
  obtain ⟨h0, h1, h2⟩ := ha
  exact advance3_byteAt d now s h0 h1 h2

theorem normalMode3_iff (s : State) :
    normalMode3 s = true ↔ (s.byteAt aTCCR3A).toNat % 4 = 0 ∧ (s.byteAt aTCCR3B).toNat / 8 % 4 = 0 := by
  rw [normalMode3, Bool.and_eq_true, decide_eq_true_iff, decide_eq_true_iff]

theorem divisor3_refuses {s : State} (h : (s.byteAt aTCCR3A).toNat % 4 ≠ 0 ∨ (s.byteAt aTCCR3B).toNat / 8 % 4 ≠ 0
    ∨ 6 ≤ (s.byteAt aTCCR3B).toNat % 8) : divisor3 s = refuse .timer3Mode := by
  unfold divisor3
  split
  · next hmode =>
    obtain ⟨ha, hb⟩ := (normalMode3_iff s).mp hmode
    have hselect : 6 ≤ clockSelect (s.byteAt aTCCR3B) := (h.resolve_left (· ha)).resolve_left (· hb)
    have hnone := prescale_isSome (clockSelect (s.byteAt aTCCR3B))
    rw [decide_eq_false (Nat.not_lt.mpr hselect), Option.isSome_eq_false_iff, Option.isNone_iff_eq_none] at hnone
    rw [hnone]
  · rfl

/-! ### Timer4 (R321 to R323) -/

section
variable {m target k : Nat} {toggle : Byte} {r : Timer4Regs}

theorem Timer4Regs.pass_count (hpos : 0 < m) (hm : m ≤ 1024) (hk : k ≠ 0) :
    (r.pass m target toggle k).count = (r.count % m + k) % m := by
  rw [pass, if_neg hk, count_counted hpos hm]

theorem getLsbD_and_fc (v : Byte) {b : BitNo} (hb : 2 ≤ b.val) : (v &&& 0xFC).getLsbD b.val = v.getLsbD b.val := by
  have hmask : ∀ b : BitNo, 2 ≤ b.val → (0xFC : Byte).getLsbD b.val = true := by decide
  rw [BitVec.getLsbD_and, hmask b hb, Bool.and_true]

theorem Timer4Regs.pass_tc4h {b : BitNo} (hb : 2 ≤ b.val) :
    (r.pass m target toggle k).tc4h.getLsbD b.val = r.tc4h.getLsbD b.val := by
  have hkept : (r.pass m target toggle k).tc4h &&& 0xFC = r.tc4h &&& 0xFC := by
    unfold pass
    split
    · rfl
    · exact (tc4h_parts _ _).2
  rw [← getLsbD_and_fc _ hb, hkept, getLsbD_and_fc _ hb]

theorem Timer4Regs.pass_tifr (b : BitNo) : (r.pass m target toggle k).tifr.getLsbD b.val
    = (r.tifr.getLsbD b.val || (decide (b = 2) && decide (k ≠ 0 ∧ m ≤ r.count % m + k))
      || (decide (b = 6) && decide (0 < matchCount m (r.count % m) target k))) := by
  by_cases hk : k = 0
  · simp [pass, hk, matchCount]
  · rw [pass, if_neg hk, decide_eq_decide.mpr (and_iff_right hk)]
    exact (getLsbD_setBitIf _ _ 6 b).trans (congrArg (· || _) (getLsbD_setBitIf _ r.tifr 2 b))

theorem Timer4Regs.pass_portc : (r.pass m target toggle k).portc
    = if matchCount m (r.count % m) target k % 2 = 1 then r.portc ^^^ toggle else r.portc := by
  by_cases hk : k = 0
  · simp [pass, hk, matchCount]
  · rw [pass, if_neg hk, counted]

end

section
variable (now : Nat) (s : State)

theorem catchUp4_eq_self {now : Nat} {s : State} (hd : divisor4 s ≠ 0) (hk : (now - s.last.t4) / divisor4 s = 0) :
    catchUp4 now s = s := by
  rcases catchUp4_cases now s with ⟨h, -⟩ | ⟨-, -, e⟩ | ⟨-, h, -⟩
  · exact absurd h hd
  · exact e
  · exact absurd hk h

theorem catchUp4_eq : catchUp4 now s = { s with data := (catchUp4 now s).data, last := (catchUp4 now s).last } := by
  have hq := catchUp4_quiet now s
  rwa [quiet, catchUp4_memo] at hq

theorem bytesKept_catchUp4 : bytesKept [aTCNT4, aTC4H, aTIFR4, aPORTC] s (catchUp4 now s) := by
  have hq := catchUp4_quiet now s
  refine ⟨fun a ha => ?_, fun a => by rw [quiet_eeprom hq], fun a => by rw [State.flashAt, quiet_flash hq, State.flashAt]⟩
  simp only [List.mem_cons, List.not_mem_nil, or_false, not_or] at ha
  obtain ⟨h0, h1, h2, h3⟩ := ha
  exact catchUp4_byteAt now s h0 h1 h2 h3

end

/-! ### The open parameters of timer4 (R321) -/

theorem t4Toggle_low (s : State) (b : BitNo) (hb : b.val < 6) : (t4Toggle s).getLsbD b.val = false := by
  have hmask : ∀ b : BitNo, b.val < 6 → (0xC0 : Byte).getLsbD b.val = false := by decide
  rw [t4Toggle, BitVec.getLsbD_and, hmask b hb, Bool.and_false]

theorem divisor4_suggested {s : State} (h : s.params.t4Div = resetParams.t4Div) : divisor4 s
    = if (s.byteAt aTCCR4B).toNat % 16 = 0 then 0 else 2 ^ ((s.byteAt aTCCR4B).toNat % 16 - 1) := by
  have hall : ∀ i : Fin 16, resetParams.t4Div[i.val] = if i.val = 0 then 0 else 2 ^ (i.val - 1) := by decide
  simp only [divisor4, h]
  exact hall ⟨_, Nat.mod_lt _ (by decide)⟩

theorem t4Toggle_suggested {s : State} (h : s.params.t4Toggle = []) :
    t4Toggle s = if s.byteAt aTCCR4A &&& 0xC0 = 0 then 0 else s.byteAt aDDRC &&& 0xC0 := by
  rw [t4Toggle, h, List.lookup_nil, Option.getD_none, t4ToggleSuggested]
  split
  · exact BitVec.zero_and
  · rw [BitVec.and_assoc, BitVec.and_self]

/-- Settles O57: each timer's registers pass the ticks since its baseline. -/
theorem timers3And4 : Obligations.Timers3And4 := by
  refine ⟨?_, fun now s h => ?_, fun now s hd => if_pos hd, ?_, t4Toggle_low, fun s hdiv hcompare htoggle =>
    ⟨divisor4_suggested hdiv, t4Compare_suggested hcompare, t4Toggle_suggested htoggle⟩⟩
  · rintro now d k s ha hb hd rfl
    have hregs := advance3_timer3 d now s
    have hflag (b : BitNo) :=
      (congrArg (fun r : Timer3Regs => r.tifr.getLsbD b.val) hregs).trans (Timer3Regs.pass_tifr _ _ _ b)
    have hmemo := advance3_memo d now s
    simp only [← matchCount_pos_iff]
    refine ⟨advance3 d now s, catchUp3_eq_ok.mpr ⟨(normalMode3_iff s).mpr ⟨ha, hb⟩, d, hd, rfl⟩, ?_, ?_, fun b hb => ?_,
      fun hk => ?_, fun hk => ?_, ?_, bytesKept_advance3 d now s, quiet_advance3 d now s⟩
    · exact (congrArg (fun r : Timer3Regs => r.count.toNat) hregs).trans (Timer3Regs.pass_count _ _ _)
    · rw [← decide_eq_true_iff (p := 0 < _), ← Bool.or_eq_true]
      exact Bool.eq_iff_iff.mp (hflag 1)
    · refine (hflag b).trans ?_
      rw [decide_eq_false hb, Bool.false_and, Bool.or_false]
      rfl
    · rw [hmemo, if_pos hk]
    · rw [hmemo, if_neg hk, decide_eq_true_iff]
    · rw [(advance3_last d now s).1, advance3_t3]
      rfl
  · rw [catchUp3, divisor3_refuses h, refuse_bind]
  · rintro now k m old n s t hd rfl rfl hm rfl rfl rfl
    have hregs := catchUp4_timer4 now s
    refine ⟨catchUp4_eq_self hd, fun hk => ?_, fun b hb => ?_, fun b => ?_, ?_, ?_, bytesKept_catchUp4 now s,
      catchUp4_eq now s⟩
    · exact (congrArg Timer4Regs.count hregs).trans (Timer4Regs.pass_count (Nat.succ_pos _) hm hk)
    · exact (congrArg (fun r : Timer4Regs => r.tc4h.getLsbD b.val) hregs).trans (Timer4Regs.pass_tc4h hb)
    · exact (congrArg (fun r : Timer4Regs => r.tifr.getLsbD b.val) hregs).trans (Timer4Regs.pass_tifr b)
    · exact (congrArg Timer4Regs.portc hregs).trans Timer4Regs.pass_portc
    · rw [(catchUp4_last now s).1, catchUp4_t4]
      exact congrArg (fun n => { s.last with t4 := n }) (if_neg hd)

end Sys2Proof.Machine
end
